-- ==== Sys2Proof/Word.lean ====
section
/-! DEFINITION. The widths of B94CORE's data (spec/30_encoding.md R66, spec/10_state.md R12 to R23).
Every quantity of the block is unsigned (spec/00_scope.md R8). -/

namespace Sys2Proof

/-- A byte of the byte stream: 8 bits (R66). -/
abbrev Byte := BitVec 8

/-- A symbol value: 7 bits, legal values 0 to 93 (R66, R15). -/
abbrev Symbol := BitVec 7

/-- A group value or combined value: 14 bits, 0 to 8835 (R66, R96). -/
abbrev Value := BitVec 14

/-- A bit-buffer accumulator, EBUF or DBUF: 21 bits (R12, R16). -/
abbrev Acc := BitVec 21

/-- A bit count, ECNT or DCNT: 5 bits (R13, R17). -/
abbrev Count := BitVec 5

/-- The offending-character payload: CHAR_W = 21 bits, opaque to the block (R7, R61). -/
abbrev CharCode := BitVec 21

/-- A command word CW: 24 bits (R60). -/
abbrev CmdWord := BitVec 24

end Sys2Proof
end

