-- ==== Sys2Proof/Config.lean ====
section
/-! DEFINITION. The constants the source fixes (spec/00_scope.md R6).
The parameters the source leaves open take the values of R7: N_INST is 1 (this model is one instance), OUT_CAP and
POS_W are unbounded (lists and natural numbers), CHAR_W is 21 (`CharCode`), the index base is 0.
The masks of R6 are the widths of `BitVec.setWidth`, and PAIR_MAX is a bound that is proved, not a parameter.
The spec leaves no value open that an implementation could produce, so there is no free value here. -/

namespace Sys2Proof.Config

/-- RADIX: the number of symbol values and the digit base (R6). -/
abbrev radix : Nat := 94

/-- SYM_MAX: the largest symbol value (R6). -/
abbrev symMax : Nat := 93

/-- W_SHORT: bits in a short group (R6). -/
abbrev wShort : Nat := 13

/-- W_LONG: bits in a long group (R6). -/
abbrev wLong : Nat := 14

/-- THRESH: low 13 bits above this make a short group (R6). -/
abbrev thresh : Nat := 643

/-- BYTE_W: bits in a byte (R6). -/
abbrev byteW : Nat := 8

/-- ENC_DRAIN: the encoder extracts a group while ECNT is at least this (R6). -/
abbrev encDrain : Nat := 14

/-- DEC_DRAIN: the decoder extracts a byte while DCNT is at least this (R6). -/
abbrev decDrain : Nat := 8

/-- FLUSH_VAL: the flush emits a second symbol if EBUF is at least this (R6). -/
abbrev flushVal : Nat := 94

/-- FLUSH_CNT: the flush emits a second symbol if ECNT is above this (R6). -/
abbrev flushCnt : Nat := 8

end Sys2Proof.Config
end

