-- ==== Sys2Proof/Syntax.lean ====
section
/-! DEFINITION. The seven commands of spec/opcode_table.json (spec/30_encoding.md R64), the two units and their ports
(R60), and the reasons a command word is illegal (R65). -/

namespace Sys2Proof

/-- The two units of the block, each with its own command port (R5, R60). -/
inductive UnitId where
  /-- ENC and its port: words whose bit 23 is 0. -/
  | enc
  /-- DEC and its port: words whose bit 23 is 1. -/
  | dec
deriving DecidableEq, Repr

/-- The commands, one constructor per row of the opcode table (R64). -/
inductive Instr where
  /-- EINIT: begin, or abandon and restart, an encoder invocation (R110). -/
  | einit
  /-- EPUT b: absorb one input byte (R111). -/
  | eput (b : Byte)
  /-- EEND: flush, publish, return to the initial state (R116). -/
  | eend
  /-- DINIT: begin, or abandon and restart, a decoder invocation, leave FAULT (R130). -/
  | dinit
  /-- DSYM s: accept one symbol value (R131). -/
  | dsym (s : Symbol)
  /-- DBAD ch: a character that is not in the alphabet (R140). -/
  | dbad (ch : CharCode)
  /-- DEND: tail step, residual check, publish or fault (R137). -/
  | dend
deriving DecidableEq, Repr

/-- The unit a command is for: bit 23 of its word (R60). -/
def Instr.unit : Instr → UnitId
  | .einit | .eput _ | .eend => .enc
  | .dinit | .dsym _ | .dbad _ | .dend => .dec

/-- Why a command word is illegal, the six cases of R65. -/
inductive Illegal where
  /-- R65 (a): op = 0b011 with any arg. -/
  | reservedOp
  /-- R65 (b): a Z-format command with a nonzero arg bit. -/
  | operandNotZero
  /-- R65 (c): EPUT with any of arg[20:8] nonzero. -/
  | byteTooWide
  /-- R65 (d): DSYM with any of arg[20:7] nonzero. -/
  | symbolTooWide
  /-- R65 (e): DSYM with arg[6:0] in 94..127. -/
  | symbolOutOfRange
  /-- R65 (f): the word's unit bit does not match the port it arrives on. -/
  | wrongPort
deriving DecidableEq, Repr

end Sys2Proof
end

