-- ==== Sys2Proof/WellFormed.lean ====
section
/-! DEFINITION. Which commands are legal. The field widths are in the types of `Instr`; the one further constraint of the
opcode table is DSYM's `s <= 93` (spec/30_encoding.md R61, R64, R65 (e)). -/

namespace Sys2Proof

/-- A legal symbol value, 0 to 93 (R66). -/
def Symbol.legal (s : Symbol) : Bool := decide (s.toNat ≤ Config.symMax)

/-- The extra constraint of the opcode map (R64). -/
def Instr.wf : Instr → Bool
  | .dsym s => Symbol.legal s
  | .einit | .eput _ | .eend | .dinit | .dbad _ | .dend => true

end Sys2Proof
end

