-- ==== Sys2Proof/Decode.lean ====
section
/-! DEFINITION. The command decoder and encoder (spec/30_encoding.md R60 to R65).
The decoder is total on 24-bit words and rejects an illegal word by the case of R65 it falls under; the port check,
R65 (f), needs the port and stands in Machine/Ports.lean. -/

namespace Sys2Proof

/-- `op = CW[23:21]` (R60). -/
def opField (w : CmdWord) : BitVec 3 := w.extractLsb' 21 3

/-- `arg = CW[20:0]` (R60). -/
def argField (w : CmdWord) : BitVec 21 := w.extractLsb' 0 21

/-- The unit a word is for, `CW[23]` (R60). -/
def unitField (w : CmdWord) : UnitId := if w.getLsbD 23 then .dec else .enc

/-- Format Z: no operand, every arg bit 0 (R61). -/
def decodeZ (i : Instr) (arg : BitVec 21) : Except Illegal Instr :=
  if arg = 0 then .ok i else .error .operandNotZero

/-- Format B: `b = CW[7:0]`, arg[20:8] = 0 (R61, R63). -/
def decodeB (arg : BitVec 21) : Except Illegal Instr :=
  if arg.extractLsb' 8 13 = 0 then .ok (.eput (arg.extractLsb' 0 8)) else .error .byteTooWide

/-- Format S: `s = CW[6:0]`, arg[20:7] = 0, s at most 93 (R61, R63). -/
def decodeS (arg : BitVec 21) : Except Illegal Instr :=
  if arg.extractLsb' 7 14 = 0 then
    if Symbol.legal (arg.extractLsb' 0 7) then .ok (.dsym (arg.extractLsb' 0 7))
    else .error .symbolOutOfRange
  else .error .symbolTooWide

/-- Format C: `ch = CW[20:0]`, opaque (R61, R63). -/
def decodeC (arg : BitVec 21) : Except Illegal Instr := .ok (.dbad arg)

/-- The opcode map (R64): every 24-bit word is exactly one command or illegal (R65). -/
def decode (w : CmdWord) : Except Illegal Instr :=
  let arg := argField w
  match (opField w).toNat with
  | 0 => decodeZ .einit arg
  | 1 => decodeB arg
  | 2 => decodeZ .eend arg
  | 3 => .error .reservedOp
  | 4 => decodeZ .dinit arg
  | 5 => decodeS arg
  | 6 => decodeC arg
  | _ => decodeZ .dend arg

/-- The `match` column of the opcode map (R64). -/
def Instr.matchBits : Instr → CmdWord
  | .einit => 0x000000#24
  | .eput _ => 0x200000#24
  | .eend => 0x400000#24
  | .dinit => 0x800000#24
  | .dsym _ => 0xA00000#24
  | .dbad _ => 0xC00000#24
  | .dend => 0xE00000#24

/-- The `mask` column of the opcode map (R64). -/
def Instr.maskBits : Instr → CmdWord
  | .einit | .eend | .dinit | .dend => 0xFFFFFF#24
  | .eput _ => 0xFFFF00#24
  | .dsym _ => 0xFFFF80#24
  | .dbad _ => 0xE00000#24

/-- The operand, zero-extended to the word (R60). -/
def Instr.operandBits : Instr → CmdWord
  | .eput b => b.setWidth 24
  | .dsym s => s.setWidth 24
  | .dbad ch => ch.setWidth 24
  | .einit | .eend | .dinit | .dend => 0

/-- The command word of an instruction (R60, R64): the row's match bits with the operand in the low bits. -/
def encode (i : Instr) : CmdWord := i.matchBits ||| i.operandBits

/-- What the decoder reads from a table row's bits: the word is one 24-bit unit, so the table's bit numbers are CW's. -/
def decodeTableWord (nbits w : Nat) : Option Instr :=
  if nbits ≤ 24 then
    match decode (BitVec.ofNat 24 (w % 2 ^ nbits)) with
    | .ok i => some i
    | .error _ => none
  else none

end Sys2Proof
end

