-- ==== Sys2Proof/Machine/State.lean ====
section
/-! DEFINITION. The architectural state of B94CORE (spec/10_state.md R10 to R24), the command words waiting at its two ports
(spec/20_memory.md R40), and the state after reset (R28, spec/70_reset_and_hazards.md R200).
ENC's registers and DEC's are two disjoint groups (R10), held as two records. -/

namespace Sys2Proof.Machine

/-- ENC's registers (R10). -/
structure EncUnit where
  /-- EBUF, the encoder accumulator (R12). -/
  ebuf : Acc
  /-- ECNT, the number of valid low bits in EBUF (R13). -/
  ecnt : Count
  /-- EOUT, the symbol values of the invocation in progress (R15). -/
  eout : List Symbol
  /-- ERES, the result log: one entry per completed EEND (R24). -/
  eres : List (List Symbol)
deriving DecidableEq, Repr

/-- DSTAT.state (R23): 0 is RUN, 1 is FAULT. -/
inductive RunState where
  /-- RUN: accepting symbols. -/
  | run
  /-- FAULT: the invocation was ended by a fault. -/
  | fault
deriving DecidableEq, Repr

/-- DSTAT.cause (R23, R170): code 3 is reserved and never written, so there are three values (U9). -/
inductive Cause where
  /-- Code 0: no fault since DINIT or reset. -/
  | none
  /-- Code 1: InvalidCharacter. -/
  | invalidCharacter
  /-- Code 2: InvalidPadding. -/
  | invalidPadding
deriving DecidableEq, Repr

/-- DSTAT, the decoder status register (R23). -/
structure DStat where
  /-- DSTAT.state. -/
  state : RunState
  /-- DSTAT.cause. -/
  cause : Cause
deriving DecidableEq, Repr

/-- DINFO, the decoder fault information (R23). -/
structure DInfo where
  /-- DINFO.ch, the offending character payload. -/
  ch : CharCode
  /-- DINFO.idx, the 0-based index of the offending symbol. -/
  idx : Nat
deriving DecidableEq, Repr

/-- The two faults of the decoder, with what each records (R170). -/
inductive DecFault where
  /-- InvalidCharacter: the character and its index (R171). -/
  | invalidCharacter (ch : CharCode) (idx : Nat)
  /-- InvalidPadding: nothing (R172). -/
  | invalidPadding
deriving DecidableEq, Repr

/-- An entry of DRES (R24). -/
inductive DecResult where
  /-- `ok(bytes)`, appended by a successful DEND (R139). -/
  | ok (bytes : List Byte)
  /-- `fault(...)`, appended by fault entry (R178). -/
  | fault (f : DecFault)
deriving DecidableEq, Repr

/-- DEC's registers (R10). -/
structure DecUnit where
  /-- DBUF, the decoder accumulator (R16). -/
  dbuf : Acc
  /-- DCNT, the decoder bit count (R17). -/
  dcnt : Count
  /-- DPEND, the pending first-of-pair value: `none` is a shape of its own (R18). -/
  dpend : Option Symbol
  /-- DPOS, the number of DSYM commands executed in RUN since the invocation began (R21). -/
  dpos : Nat
  /-- DOUT, the bytes of the invocation in progress (R22). -/
  dout : List Byte
  /-- DSTAT (R23). -/
  dstat : DStat
  /-- DINFO (R23). -/
  dinfo : DInfo
  /-- DRES, the result log: one entry per ended invocation (R24). -/
  dres : List DecResult
deriving DecidableEq, Repr

/-- A command word the host has delivered, with the port it arrives on (R40, R60). -/
structure Arrival where
  /-- The port the word arrives on. -/
  port : UnitId
  /-- The word. -/
  word : CmdWord
deriving DecidableEq, Repr

/-- The machine: the registers of R10, and the words delivered and not yet executed.
DESIGN CHOICE (log entry 1; safe): the two command streams of R40 are one list in order of arrival, each word tagged with its
port; ENC's stream is the words tagged `enc`, DEC's those tagged `dec`, and the list's order is one interleaving (R51). -/
structure State where
  /-- ENC's registers. -/
  enc : EncUnit
  /-- DEC's registers. -/
  dec : DecUnit
  /-- The command words delivered and not yet executed, oldest first. -/
  arrivals : List Arrival
deriving DecidableEq, Repr

/-- Reasons a step could stop the machine with a fault: there is none. The two faults of the spec (R170) are recorded in DEC's
registers and the machine goes on, so taking one is a next state (R178; log entry 3). -/
inductive Fault where
deriving DecidableEq, Repr

/-- Reasons a step has no next state. -/
inductive Refusal where
  /-- Raised by an arm of `exec` for an instruction without a meaning yet (none is left). Safe: nothing is claimed of it. -/
  | notModelled (mnemonic : String)
  /-- IllegalCommand: raised by a command port for an illegal word (R65, R176), and by DSYM's meaning for an operand above 93
  (R65 (e)), which no port lets through. Safe: the spec asks a model to take no step (R176; log entries 9 and 10). -/
  | illegalCommand (why : Illegal)
deriving DecidableEq, Repr

/-- ENC after reset (R28). -/
def EncUnit.reset : EncUnit := { ebuf := 0, ecnt := 0, eout := [], eres := [] }

/-- DEC after reset (R28). -/
def DecUnit.reset : DecUnit :=
  { dbuf := 0, dcnt := 0, dpend := none, dpos := 0, dout := []
    dstat := { state := .run, cause := .none }, dinfo := { ch := 0, idx := 0 }, dres := [] }

/-- The machine right after reset (R28, R200). No word has been delivered yet (log entry 1). -/
def State.reset : State := { enc := .reset, dec := .reset, arrivals := [] }

end Sys2Proof.Machine
end

