-- ==== Sys2Proof/Machine/Flags.lean ====
section
/-! DEFINITION. The five predicates of spec/10_state.md R25 and the width function of
spec/40_bitbuffer_and_partition.md R92. Each is computed inside a command and never stored: the block has no flags. -/

namespace Sys2Proof.Machine

/-- `short(x) = (x[12:0] > 643)`: strict, bit 13 and above ignored (R92). -/
def isShort {n : Nat} (x : BitVec n) : Bool := decide (Config.thresh < (x.setWidth 13).toNat)

/-- `WIDTH(v) = 13 if short(v) else 14` (R92). -/
def widthOf (v : Value) : Nat := if isShort v then Config.wShort else Config.wLong

/-- `e_drain`: ECNT >= 14 (R25, R113). -/
def eDrain (cnt : Count) : Bool := decide (Config.encDrain ≤ cnt.toNat)

/-- `d_drain`: DCNT >= 8 (R25, R136). -/
def dDrain (cnt : Count) : Bool := decide (Config.decDrain ≤ cnt.toNat)

/-- `second`: EBUF >= 94 or ECNT > 8, to be kept exactly as written (R25, R116). -/
def needSecond (buf : Acc) (cnt : Count) : Bool :=
  decide (Config.flushVal ≤ buf.toNat) || decide (Config.flushCnt < cnt.toNat)

/-- `pad_ok`: the whole of DBUF is 0 (R25, R138). -/
def padOk (buf : Acc) : Bool := decide (buf.toNat = 0)

end Sys2Proof.Machine
end

