-- ==== Sys2Proof/Machine/Operands.lean ====
section
/-! DEFINITION. How an operand enters the datapath (spec/30_encoding.md R63, spec/00_scope.md R8: `zext_21`), and what the
host reads: the packed layout of DSTAT and DINFO (spec/10_state.md R23) and the observable outcome
(spec/70_reset_and_hazards.md R207). -/

namespace Sys2Proof.Machine

/-- `zext_21(b)` of EPUT's byte (R63, R111). -/
def zextByte (b : Byte) : Acc := b.setWidth 21

/-- `zext_21(v)` of a combined value (R131). -/
def zextValue (v : Value) : Acc := v.setWidth 21

/-- `zext_21(p)` of a pending symbol value (R137). -/
def zextSymbol (p : Symbol) : Acc := p.setWidth 21

/-- DSTAT.state as its bit: 0 RUN, 1 FAULT (R23). -/
def RunState.bit : RunState → BitVec 1
  | .run => 0
  | .fault => 1

/-- The cause codes (R170). -/
def Cause.code : Cause → BitVec 2
  | .none => 0
  | .invalidCharacter => 1
  | .invalidPadding => 2

/-- DSTAT as the host reads it: state in bit 0, cause in bits 2:1 (R23). -/
def DStat.word (d : DStat) : BitVec 3 := d.cause.code ++ d.state.bit

/-- DINFO as the host reads it: ch in bits 20:0, idx in the bits above (R23); POS_W is unbounded, so a natural number. -/
def DInfo.word (d : DInfo) : Nat := d.ch.toNat + d.idx * 2 ^ 21

/-- The observable outcome: ERES, DRES, DSTAT and DINFO, the only registers the host reads (R24, R29, R207). -/
structure Observation where
  /-- ERES. -/
  eres : List (List Symbol)
  /-- DRES. -/
  dres : List DecResult
  /-- DSTAT's word. -/
  dstat : BitVec 3
  /-- DINFO's word. -/
  dinfo : Nat
deriving DecidableEq, Repr

/-- What the host reads; reading has no side effect and may be repeated (R49). -/
def State.observe (s : State) : Observation :=
  { eres := s.enc.eres, dres := s.dec.dres, dstat := s.dec.dstat.word, dinfo := s.dec.dinfo.word }

end Sys2Proof.Machine
end

