-- ==== Sys2Proof/Machine/Ops.lean ====
section
/-! DEFINITION. The shared operations: the bit-buffer primitives MERGE and TAKE and the base-94 DIGITS and COMBINE
(spec/40_bitbuffer_and_partition.md R93 to R96), the updates of ENC's and DEC's registers (spec/00_scope.md R8: Append,
Publish), fault entry (spec/60_exceptions.md R178), the way out of FAULT (spec/42_decoder.md R130) and reset
(spec/70_reset_and_hazards.md R200). -/

namespace Sys2Proof.Machine

/-- MERGE(buf, cnt, x): `buf | (x << cnt)` (R93). The caller updates the count. -/
def merge (buf : Acc) (cnt : Count) (x : Acc) : Acc := buf ||| (x <<< cnt.toNat)

/-- TAKE's `out = buf[w-1:0]` (R94). -/
def takeOut (w : Nat) (buf : Acc) : BitVec w := buf.setWidth w

/-- TAKE's `buf' = buf >> w`, unsigned (R94). -/
def takeBuf (w : Nat) (buf : Acc) : Acc := buf >>> w

/-- TAKE's `cnt' = cnt - w` (R94), exact where `cnt >= w`. -/
def takeCnt (w : Nat) (cnt : Count) : Count := cnt - BitVec.ofNat 5 w

/-- The count after a merge of `w` bits (R112, R135). -/
def addCnt (w : Nat) (cnt : Count) : Count := cnt + BitVec.ofNat 5 w

/-- DIGITS(x): `d0 = x mod 94` (R95). -/
def digitLow {n : Nat} (x : BitVec n) : Symbol := BitVec.ofNat 7 (x.toNat % Config.radix)

/-- DIGITS(x): `d1 = x div 94` (R95). -/
def digitHigh {n : Nat} (x : BitVec n) : Symbol := BitVec.ofNat 7 (x.toNat / Config.radix)

/-- COMBINE(d0, d1): `v = d0 + d1 * 94` (R96). -/
def combine (d0 d1 : Symbol) : Value := BitVec.ofNat 14 (d0.toNat + d1.toNat * Config.radix)

/-! ## Updates of ENC's registers -/

/-- Write EBUF and ECNT. -/
def EncUnit.setBits (u : EncUnit) (buf : Acc) (cnt : Count) : EncUnit := { u with ebuf := buf, ecnt := cnt }

/-- `Append(EOUT, x)` for each x in order (R8). -/
def EncUnit.append (u : EncUnit) (xs : List Symbol) : EncUnit := { u with eout := u.eout ++ xs }

/-- `Publish(ERES, EOUT)` (R116). -/
def EncUnit.publish (u : EncUnit) : EncUnit := { u with eres := u.eres ++ [u.eout] }

/-- EBUF, ECNT and EOUT to their initial values; ERES is never re-initialised by a command (R28, R110). -/
def EncUnit.clear (u : EncUnit) : EncUnit := { u with ebuf := 0, ecnt := 0, eout := [] }

/-! ## Updates of DEC's registers -/

/-- Write DBUF and DCNT. -/
def DecUnit.setBits (u : DecUnit) (buf : Acc) (cnt : Count) : DecUnit := { u with dbuf := buf, dcnt := cnt }

/-- `Append(DOUT, b)` for each b in order (R8). -/
def DecUnit.append (u : DecUnit) (bs : List Byte) : DecUnit := { u with dout := u.dout ++ bs }

/-- Write DPEND. -/
def DecUnit.setPend (u : DecUnit) (p : Option Symbol) : DecUnit := { u with dpend := p }

/-- `DPOS <- DPOS + 1` (R131). -/
def DecUnit.bumpPos (u : DecUnit) : DecUnit := { u with dpos := u.dpos + 1 }

/-- `Publish(DRES, r)` (R8). -/
def DecUnit.publish (u : DecUnit) (r : DecResult) : DecUnit := { u with dres := u.dres ++ [r] }

/-- Write DSTAT and DINFO. -/
def DecUnit.setStatus (u : DecUnit) (d : DStat) (i : DInfo) : DecUnit := { u with dstat := d, dinfo := i }

/-- DBUF, DCNT, DPEND, DPOS and DOUT to their initial values: the call's state is discarded (R11, R137, R178). -/
def DecUnit.clearCall (u : DecUnit) : DecUnit := { u with dbuf := 0, dcnt := 0, dpend := none, dpos := 0, dout := [] }

/-! ## Fault entry, and the way out of it -/

/-- What a fault writes to DSTAT.cause (R170). -/
def DecFault.cause : DecFault → Cause
  | .invalidCharacter _ _ => .invalidCharacter
  | .invalidPadding => .invalidPadding

/-- What a fault writes to DINFO: the character and its index, or 0 and 0 (R178). -/
def DecFault.info : DecFault → DInfo
  | .invalidCharacter ch idx => { ch := ch, idx := idx }
  | .invalidPadding => { ch := 0, idx := 0 }

/-- Fault entry, `raise f` (R178): discard the call's state and output, enter FAULT with the cause and the information,
publish the fault. -/
def DecUnit.raise (u : DecUnit) (f : DecFault) : DecUnit :=
  (u.clearCall.setStatus { state := .fault, cause := f.cause } f.info).publish (.fault f)

/-- DINIT's effect, the only command that leaves FAULT (R130, R180): every register but DRES to its initial value. -/
def DecUnit.init (u : DecUnit) : DecUnit :=
  u.clearCall.setStatus { state := .run, cause := .none } { ch := 0, idx := 0 }

/-- DSYM, DBAD and DEND have their effect in RUN and are dropped in FAULT (R141). -/
def DecUnit.whenRun (u : DecUnit) (effect : DecUnit → DecUnit) : DecUnit :=
  match u.dstat.state with
  | .run => effect u
  | .fault => u

/-! ## Units in the machine, and reset -/

/-- A command of ENC writes ENC's registers alone (R10). -/
def State.onEnc (s : State) (f : EncUnit → EncUnit) : State := { s with enc := f s.enc }

/-- A command of DEC writes DEC's registers alone (R10). -/
def State.onDec (s : State) (f : DecUnit → DecUnit) : State := { s with dec := f s.dec }

/-- A reset event: every register of both units to its initial value, both logs emptied (R200). The host's words that wait
at the ports are no registers of the block and stay (DESIGN CHOICE, log entry 11). -/
def State.resetEvent (s : State) : State := { State.reset with arrivals := s.arrivals }

end Sys2Proof.Machine
end

