-- ==== Sys2Proof/Machine/Decoder.lean ====
section
/-! DEFINITION. The decoder unit DEC: DINIT, DSYM, DBAD, DEND (spec/42_decoder.md). -/

namespace Sys2Proof.Machine

/-- One iteration of the drain: the low byte of DBUF is appended to DOUT (R136). -/
def decByte (u : DecUnit) : DecUnit :=
  (u.append [takeOut 8 u.dbuf]).setBits (takeBuf 8 u.dbuf) (takeCnt Config.byteW u.dcnt)

/-- The loop `while DCNT >= 8` of DSYM (R136). The first argument bounds the iterations; DCNT itself is always enough. -/
def decDrain : Nat → DecUnit → DecUnit
  | 0, u => u
  | n + 1, u => if dDrain u.dcnt then decDrain n (decByte u) else u

/-- The merge of a combined value of recovered width (R134, R135). -/
def decMerge (v : Value) (u : DecUnit) : DecUnit :=
  u.setBits (merge u.dbuf u.dcnt (zextValue v)) (addCnt (widthOf v) u.dcnt)

/-- The second symbol of a pair, combined to `v` (R133 to R136). -/
def decPair (v : Value) (u : DecUnit) : DecUnit :=
  let m := decMerge v (u.setPend none)
  decDrain m.dcnt.toNat m

/-- DSYM's effect in RUN (R131): the first symbol of a pair is stored (R132), the second completes it. -/
def decSymbol (s : Symbol) (u : DecUnit) : DecUnit :=
  match u.dpend with
  | none => (u.setPend (some s)).bumpPos
  | some p => (decPair (combine p s) u).bumpPos

/-- The tail step of DEND: an unpaired symbol gives one byte, and DCNT is not changed (R137, D20). -/
def decTail (u : DecUnit) : DecUnit :=
  match u.dpend with
  | none => u
  | some p =>
    let m := merge u.dbuf u.dcnt (zextSymbol p)
    ((u.append [takeOut 8 m]).setBits (takeBuf 8 m) u.dcnt).setPend none

/-- DEND's effect in RUN (R137 to R139): tail step, residual check, publication or fault entry. -/
def decEnd (u : DecUnit) : DecUnit :=
  let t := decTail u
  if padOk t.dbuf then (t.publish (.ok t.dout)).clearCall else t.raise .invalidPadding

/-- DBAD's effect in RUN: `raise InvalidCharacter(ch, DPOS)` (R140). -/
def decBad (ch : CharCode) (u : DecUnit) : DecUnit := u.raise (.invalidCharacter ch u.dpos)

/-- DINIT (R130): legal in every state. -/
def execDinit (s : State) : Host.Outcome State Fault Refusal := .next (s.onDec DecUnit.init)

/-- DSYM s (R131, R141). An operand above 93 is no command (R65 (e)): it is refused before any register is looked at
(R177; DEDUCED, log entry 10). -/
def execDsym (v : Symbol) (s : State) : Host.Outcome State Fault Refusal :=
  if Symbol.legal v then .next (s.onDec fun u => u.whenRun (decSymbol v))
  else .refused (.illegalCommand .symbolOutOfRange)

/-- DBAD ch (R140, R141). -/
def execDbad (ch : CharCode) (s : State) : Host.Outcome State Fault Refusal :=
  .next (s.onDec fun u => u.whenRun (decBad ch))

/-- DEND (R137, R141). -/
def execDend (s : State) : Host.Outcome State Fault Refusal := .next (s.onDec fun u => u.whenRun decEnd)

end Sys2Proof.Machine
end

