-- ==== Sys2Proof/Machine/Encoder.lean ====
section
/-! DEFINITION. The encoder unit ENC: EINIT, EPUT, EEND (spec/41_encoder.md). -/

namespace Sys2Proof.Machine

/-- Step E.MERGE of EPUT (R112): the byte above the valid bits, ECNT + 8. -/
def encMerge (b : Byte) (u : EncUnit) : EncUnit :=
  u.setBits (merge u.ebuf u.ecnt (zextByte b)) (addCnt Config.byteW u.ecnt)

/-- The group value the encoder takes from EBUF: its low 13 bits if they make a short group, else its low 14 bits (R113). -/
def encBlock (buf : Acc) : Value :=
  if isShort buf then (takeOut 13 buf).setWidth 14 else takeOut 14 buf

/-- How many bits that group takes away (R113). -/
def encWidth (buf : Acc) : Nat := if isShort buf then Config.wShort else Config.wLong

/-- Steps E.GROUP and E.EMIT of EPUT (R113, R114): take one group out and append its digit pair, low digit first. -/
def encGroup (u : EncUnit) : EncUnit :=
  (u.append [digitLow (encBlock u.ebuf), digitHigh (encBlock u.ebuf)]).setBits
    (takeBuf (encWidth u.ebuf) u.ebuf) (takeCnt (encWidth u.ebuf) u.ecnt)

/-- The loop `while ECNT >= 14` of EPUT (R111). The first argument bounds the iterations; ECNT itself is always enough, since
each iteration takes at least 13 away. -/
def encDrain : Nat → EncUnit → EncUnit
  | 0, u => u
  | n + 1, u => if eDrain u.ecnt then encDrain n (encGroup u) else u

/-- EPUT's effect on ENC (R111). -/
def encPut (b : Byte) (u : EncUnit) : EncUnit :=
  let m := encMerge b u
  encDrain m.ecnt.toNat m

/-- The flush of EEND (R116, R117): nothing, one symbol, or two. -/
def encFlush (u : EncUnit) : EncUnit :=
  if u.ecnt = 0 then u
  else if needSecond u.ebuf u.ecnt then u.append [digitLow u.ebuf, digitHigh u.ebuf]
  else u.append [digitLow u.ebuf]

/-- EEND's effect on ENC (R116). -/
def encEnd (u : EncUnit) : EncUnit := (encFlush u).publish.clear

/-- EINIT (R110): legal in every state; ERES is not changed. -/
def execEinit (s : State) : Host.Outcome State Fault Refusal := .next (s.onEnc EncUnit.clear)

/-- EPUT b (R111): never faults. -/
def execEput (b : Byte) (s : State) : Host.Outcome State Fault Refusal := .next (s.onEnc (encPut b))

/-- EEND (R116): never faults. -/
def execEend (s : State) : Host.Outcome State Fault Refusal := .next (s.onEnc encEnd)

end Sys2Proof.Machine
end

