-- ==== Sys2Proof/Machine/Dispatch.lean ====
section
/-! DEFINITION. One arm per command of spec/opcode_table.json. -/

namespace Sys2Proof.Machine

def exec (i : Instr) (s : State) : Host.Outcome State Fault Refusal :=
  match i with
  | .einit => Sys2Proof.Machine.execEinit s
  | .eput b => Sys2Proof.Machine.execEput b s
  | .eend => Sys2Proof.Machine.execEend s
  | .dinit => Sys2Proof.Machine.execDinit s
  | .dsym v => Sys2Proof.Machine.execDsym v s
  | .dbad ch => Sys2Proof.Machine.execDbad ch s
  | .dend => Sys2Proof.Machine.execDend s

end Sys2Proof.Machine
end

