-- ==== Sys2Proof/Machine/Ports.lean ====
section
/-! DEFINITION. The two command ports (spec/30_encoding.md R60, R65; spec/60_exceptions.md R176): what a port does with a word,
and what the host sees of it. The machine has no program counter and no fetch (spec/10_state.md R20): what it executes next
is the oldest word delivered. -/

namespace Sys2Proof.Machine

/-- A word arrives on a port: a word of the other unit is illegal (R65 (f)), an illegal word is refused (R176), a legal one is
executed as one atomic step (R48). -/
def receive (a : Arrival) (s : State) : Host.Outcome State Fault Refusal :=
  if unitField a.word = a.port then
    match decode a.word with
    | .ok i => exec i s
    | .error why => .refused (.illegalCommand why)
  else .refused (.illegalCommand .wrongPort)

/-- The next step: the oldest waiting word is consumed (R49) and executed; with no word waiting the units hold their state
(R187; log entry 12). -/
def advance (s : State) : Host.Outcome State Fault Refusal :=
  match s.arrivals with
  | [] => .next s
  | a :: rest => receive a { s with arrivals := rest }

/-- What the port tells the host about a word (R176). -/
inductive PortReply where
  /-- The word was legal and has been executed. -/
  | accepted
  /-- `IllegalCommand`. -/
  | illegalCommand
deriving DecidableEq, Repr

/-- The host offers one word and sees the port's reply. A refused word changes nothing, and the refusal is not sticky (R176):
this is how a stream goes on after an illegal word.
DESIGN CHOICE (log entry 20; unsafe): the spec has no queue of waiting words and so gives an offered word no order against the
words that stand in `s.arrivals`; here it counts as arriving before all of them, on either port: it is executed at once and they
stay as they stand. -/
def offer (s : State) (a : Arrival) : State × PortReply :=
  match receive a s with
  | .next t => (t, .accepted)
  | .fault f => nomatch f
  | .refused _ => (s, .illegalCommand)

/-- The host offers words one after another; the replies are in the words' order. All of them count as arriving before the
words that stand in `s.arrivals` (DESIGN CHOICE, log entry 20). -/
def offerAll (s : State) : List Arrival → State × List PortReply
  | [] => (s, [])
  | a :: rest =>
    let t := offer s a
    let u := offerAll t.1 rest
    (u.1, t.2 :: u.2)

/-- A command as the host sends it: its word on the port of its unit (R60). -/
def arrivalOf (i : Instr) : Arrival := { port := i.unit, word := encode i }

/-- The words of the ENC command stream and of the DEC command stream among the words delivered, in order (R40). -/
def streamOf (p : UnitId) (as : List Arrival) : List CmdWord :=
  (as.filter fun a => decide (a.port = p)).map Arrival.word

/-- The word a table row gives, delivered on the port its unit bit selects as the next word to execute. -/
def deliverFirst (s : State) (w : CmdWord) : State :=
  { s with arrivals := { port := unitField w, word := w } :: s.arrivals }

end Sys2Proof.Machine
end

