-- ==== Sys2Proof/Machine/Step.lean ====
section
/-! DEFINITION. One step of the machine, and how the host places a word to be executed next. -/

namespace Sys2Proof.Machine

/-- One step: one command, atomically (spec/20_memory.md R48). -/
def step (s : State) : Host.Outcome State Fault Refusal := advance s

/-- `s` with the word of a table row delivered as the next one to execute: the machine fetches nothing, the host delivers
(spec/10_state.md R20; log entry 14). -/
def State.withFetchWord (s : State) (nbits w : Nat) : State := deliverFirst s (BitVec.ofNat 24 (w % 2 ^ nbits))

end Sys2Proof.Machine
end

