-- ==== Sys2Proof/Machine/Calls.lean ====
section
/-! DEFINITION. Invocations: the pseudo-instructions ENCODE and DECODE (spec/30_encoding.md R76) as command lists, and the
functions of byte and symbol sequences they compute (spec/41_encoder.md R120, spec/42_decoder.md R146). -/

namespace Sys2Proof.Machine

/-- An item of DECODE's argument: a symbol value, or `!ch`, a character outside the alphabet (R76). -/
inductive Item where
  /-- A symbol value. -/
  | sym (s : Symbol)
  /-- A character outside the alphabet. -/
  | bad (ch : CharCode)
deriving DecidableEq, Repr

/-- The command an item stands for (R76). -/
def Item.command : Item → Instr
  | .sym s => .dsym s
  | .bad ch => .dbad ch

/-- `ENCODE [b0, ...]` (R76). -/
def encodeCommands (bs : List Byte) : List Instr := .einit :: (bs.map Instr.eput ++ [.eend])

/-- `DECODE [x0, ...]` (R76). -/
def decodeCommands (xs : List Item) : List Instr := .dinit :: (xs.map Item.command ++ [.dend])

/-- The state after the host has offered these commands, each as its word on its own port, ahead of the words that stand in
`s.arrivals` (DESIGN CHOICE, log entry 20). -/
def issue (s : State) (is : List Instr) : State := (offerAll s (is.map arrivalOf)).1

/-- `encode_values(bs)`: the ERES entry that ENCODE publishes (R120). -/
def encodeValues (bs : List Byte) : Option (List Symbol) := (issue State.reset (encodeCommands bs)).enc.eres.getLast?

/-- `decode_values(xs)`: the DRES entry that DECODE publishes (R146). -/
def decodeValues (xs : List Item) : Option DecResult := (issue State.reset (decodeCommands xs)).dec.dres.getLast?

end Sys2Proof.Machine
end

