-- ==== Sys2Proof/Machine/SymbolTable.lean ====
section
/-! DEFINITION. The symbol table's contract and the host's two duties (spec/43_symbol_table_port.md R160 to R162). The table is
outside the block, which never sees it (spec/10_state.md R27): it is a parameter here, never part of State. -/

namespace Sys2Proof.Machine

/-- An alphabet: the two lookups of R160; `none` is INVALID. A character is its code as the host represents it (R162). -/
structure Alphabet where
  /-- `encode_map`. -/
  encodeMap : Symbol → CharCode
  /-- `decode_map`. -/
  decodeMap : CharCode → Option Symbol

/-- The contract of R160: `decode_map` undoes `encode_map` on 0..93, is INVALID on every character that is no image, and the
characters are printable, non-space ASCII, 33 to 126 (R164). -/
def Alphabet.Valid (A : Alphabet) : Prop :=
  (∀ k, Symbol.legal k = true → A.decodeMap (A.encodeMap k) = some k) ∧
  (∀ c, (∀ k, Symbol.legal k = true → A.encodeMap k ≠ c) → A.decodeMap c = none) ∧
  ∀ k, Symbol.legal k = true → 33 ≤ (A.encodeMap k).toNat ∧ (A.encodeMap k).toNat ≤ 126

/-- The host looks a character up: a value is sent by DSYM, INVALID by DBAD (R162). -/
def Alphabet.item (A : Alphabet) (c : CharCode) : Item :=
  match A.decodeMap c with
  | some s => .sym s
  | none => .bad c

/-- The source's `encode(bytes, A)` (R161). -/
def hostEncode (A : Alphabet) (bs : List Byte) : Option (List CharCode) := (encodeValues bs).map (List.map A.encodeMap)

/-- The source's `decode(text, A)` (R162). -/
def hostDecode (A : Alphabet) (text : List CharCode) : Option DecResult := decodeValues (text.map A.item)

end Sys2Proof.Machine
end

