-- ==== Sys2Proof/Safety.lean ====
section
/-! DEFINITION. The invariants of the machine (spec/10_state.md R14, R15, R18, R19, R23), the end of a run
(spec/70_reset_and_hazards.md R207), and the vocabulary of the data format that claims use (spec/20_memory.md R42, R43;
spec/41_encoder.md R116). -/

namespace Sys2Proof

open Sys2Proof.Machine

/-- The encoder invariant: `ECNT <= 13` and `EBUF < 2^ECNT` (R14). -/
abbrev EncInv (u : EncUnit) : Prop := u.ecnt.toNat ≤ 13 ∧ u.ebuf.toNat < 2 ^ u.ecnt.toNat

/-- The decoder invariant, which R19 gives for RUN: `DCNT <= 7` and `DBUF < 2^DCNT`. -/
abbrev DecInv (u : DecUnit) : Prop := u.dcnt.toNat ≤ 7 ∧ u.dbuf.toNat < 2 ^ u.dcnt.toNat

/-- ENC's outputs: symbol values only (R15, R118), and EOUT holds whole digit pairs between commands (R118). -/
abbrev EncOutInv (u : EncUnit) : Prop :=
  u.eout.all Symbol.legal = true ∧ u.eout.length % 2 = 0 ∧ (u.eres.all fun e => e.all Symbol.legal) = true

/-- DPEND holds a symbol value (R18), and holds one exactly when an odd number of symbols has been counted (R21, R132). -/
abbrev DecPendInv (u : DecUnit) : Prop :=
  u.dpend.all Symbol.legal = true ∧ u.dpos % 2 = if u.dpend.isSome then 1 else 0

/-- Each complete pair has given 13 or 14 bits, which are in DOUT or still in DBUF (R134 to R136). -/
abbrev DecOutInv (u : DecUnit) : Prop :=
  13 * (u.dpos / 2) ≤ 8 * u.dout.length + u.dcnt.toNat ∧ 8 * u.dout.length + u.dcnt.toNat ≤ 14 * (u.dpos / 2)

/-- DSTAT and DINFO (R23): the cause is nonzero exactly in FAULT, DINFO is 0 unless the fault is InvalidCharacter, and in FAULT the
call's state has been discarded (R178). -/
abbrev DecStatusInv (u : DecUnit) : Prop :=
  (u.dstat.cause = .none ↔ u.dstat.state = .run) ∧
  (u.dstat.cause ≠ .invalidCharacter → u.dinfo = { ch := 0, idx := 0 }) ∧
  (u.dstat.state = .fault → u.dbuf = 0 ∧ u.dcnt = 0 ∧ u.dpend = none ∧ u.dpos = 0 ∧ u.dout = [])

/-- The invariant of the whole machine. -/
abbrev MachineInv (s : State) : Prop :=
  EncInv s.enc ∧ EncOutInv s.enc ∧ DecInv s.dec ∧ DecPendInv s.dec ∧ DecOutInv s.dec ∧ DecStatusInv s.dec

/-- ENC is in its initial state: no invocation is open (R207). -/
abbrev EncInitial (u : EncUnit) : Prop := u.ebuf = 0 ∧ u.ecnt = 0 ∧ u.eout = []

/-- DEC is in its initial state (R28): every register but DRES. -/
abbrev DecInitial (u : DecUnit) : Prop :=
  u.dbuf = 0 ∧ u.dcnt = 0 ∧ u.dpend = none ∧ u.dpos = 0 ∧ u.dout = [] ∧
  u.dstat = { state := .run, cause := .none } ∧ u.dinfo = { ch := 0, idx := 0 }

/-- A run is over and complete: both streams are exhausted, ENC is initial, DEC is initial or in FAULT (R207). -/
abbrev Complete (s : State) : Prop :=
  s.arrivals = [] ∧ EncInitial s.enc ∧ (DecInitial s.dec ∨ s.dec.dstat.state = .fault)

/-- A word that is illegal on the port it arrives on (R65, R176). -/
abbrev IllegalOnPort (a : Arrival) : Prop := unitField a.word ≠ a.port ∨ ∃ why, decode a.word = .error why

/-- An item whose command is legal: a symbol value is 0 to 93, a character is anything (R61, R76). -/
abbrev ItemLegal (x : Item) : Prop := x.command.wf = true

/-- The bit string S of a byte sequence, read as a number: its bit 8k+j is bit j of byte k (R42). -/
def streamNat : List Byte → Nat
  | [] => 0
  | b :: bs => b.toNat + 256 * streamNat bs

/-- The bits that a sequence of digit pairs carries, in stream order, as a number and a count: each pair carries its combined
value in 13 or 14 bits by the width rule (R43, R68); a symbol without a partner carries none. -/
def pairBits : List Symbol → Nat × Nat
  | d0 :: d1 :: rest =>
    let v := d0.toNat + 94 * d1.toNat
    let w := if 643 < v % 8192 then 13 else 14
    (v + 2 ^ w * (pairBits rest).1, w + (pairBits rest).2)
  | _ => (0, 0)

/-- The tail of the flush, by the case table of R116, for n remaining bits of value x. -/
def tailValues (n x : Nat) : List Nat :=
  if n = 0 then [] else if n ≤ 8 ∧ x < 94 then [x] else [x % 94, x / 94]

end Sys2Proof
end

