-- ==== Sys2Proof/Certificates/Slice0/Obligations.lean ====
section
/-! DEFINITION. The statements about the model, each from the numbered rules of spec/ that its docstring names. -/

open Sys2Proof Sys2Proof.Machine

/-! ## Reset, encoding, ports, step -/

/-- R200: reset gives every register its initial value and empties both logs, whatever the state before it, and no step
shortens a log. -/
def Obligations.ResetInitialisesAndOnlyResetShortensALog : Prop :=
  State.reset.enc = { ebuf := 0, ecnt := 0, eout := [], eres := [] } ∧
  State.reset.dec = { dbuf := 0, dcnt := 0, dpend := none, dpos := 0, dout := []
                      dstat := { state := .run, cause := .none }, dinfo := { ch := 0, idx := 0 }, dres := [] } ∧
  (∀ s : State, s.resetEvent.enc = State.reset.enc ∧ s.resetEvent.dec = State.reset.dec) ∧
  ∀ s t : State, step s = .next t → s.enc.eres <+: t.enc.eres ∧ s.dec.dres <+: t.dec.dres

/-- Words written out from R60, R61 and R64 (vectors V70 to V82) decode to the commands they stand for. -/
def Obligations.SpecWordsDecodeToTheirCommands : Prop :=
  decode 0x000000#24 = .ok .einit ∧ decode 0x2000FF#24 = .ok (.eput 0xFF#8) ∧ decode 0x400000#24 = .ok .eend ∧
  decode 0x800000#24 = .ok .dinit ∧ decode 0xA0005D#24 = .ok (.dsym 93#7) ∧ decode 0xDFFFFF#24 = .ok (.dbad 0x1FFFFF#21) ∧
  decode 0xE00000#24 = .ok .dend ∧ decode 0xA0005E#24 = .error .symbolOutOfRange ∧
  decode 0xE00001#24 = .error .operandNotZero ∧ decode 0x600000#24 = .error .reservedOp ∧
  decode 0x200100#24 = .error .byteTooWide ∧ decode 0xA00080#24 = .error .symbolTooWide

/-- Every legal command, with every operand its format admits, is read back from its word (R60, R61, R63, R64). -/
def Obligations.DecodeOfEncodeIsTheCommand : Prop := ∀ i : Instr, i.wf = true → decode (encode i) = .ok i

/-- A word has at most one reading and is the encoding of it (R65: exactly one command or illegal). -/
def Obligations.DecodedWordIsTheEncodingOfItsCommand : Prop :=
  ∀ (w : CmdWord) (i : Instr), decode w = .ok i → i.wf = true ∧ encode i = w

/-- R64: the rows of the opcode map; a word decodes to a command exactly when it selects the command's row, its remaining bits
are the operand, and the extra constraint holds; no word selects two rows. -/
def Obligations.WordDecodesExactlyWhenItSelectsItsRow : Prop :=
  (∀ (b : Byte) (v : Symbol) (ch : CharCode),
    [Instr.einit, .eput b, .eend, .dinit, .dsym v, .dbad ch, .dend].map (fun i => (i.matchBits, i.maskBits)) =
      [(0x000000, 0xFFFFFF), (0x200000, 0xFFFF00), (0x400000, 0xFFFFFF), (0x800000, 0xFFFFFF), (0xA00000, 0xFFFF80),
       (0xC00000, 0xE00000), (0xE00000, 0xFFFFFF)]) ∧
  (∀ (w : CmdWord) (i : Instr), decode w = .ok i ↔
    w &&& i.maskBits = i.matchBits ∧ w &&& ~~~i.maskBits = i.operandBits ∧ ∀ v, i = .dsym v → v.toNat ≤ 93) ∧
  ∀ (w : CmdWord) (i j : Instr), w &&& i.maskBits = i.matchBits → w &&& j.maskBits = j.matchBits →
    i.matchBits = j.matchBits

/-- R65: a port refuses a word exactly in the cases (a) to (f), changing nothing; every other word is a command and is
accepted. -/
def Obligations.PortRefusesExactlyTheIllegalWords : Prop :=
  ∀ (s : State) (a : Arrival),
    let op := (a.word.extractLsb' 21 3).toNat
    let arg := (a.word.extractLsb' 0 21).toNat
    let illegal := op = 3 ∨ ((op = 0 ∨ op = 2 ∨ op = 4 ∨ op = 7) ∧ arg ≠ 0) ∨ (op = 1 ∧ 256 ≤ arg) ∨ (op = 5 ∧ 128 ≤ arg) ∨
      (op = 5 ∧ 93 < arg % 128) ∨ ¬(a.word.getLsbD 23 = true ↔ a.port = .dec)
    (illegal → offer s a = (s, .illegalCommand)) ∧
    (¬illegal → (∃ i, decode a.word = .ok i) ∧ (offer s a).2 = .accepted)

/-- R176: an illegal word is refused with no step, wherever it stands in a stream; the port answers IllegalCommand for that word
alone, and what comes after it has the effect it would have had without it. -/
def Obligations.IllegalWordChangesNothingAndIsNotSticky : Prop :=
  ∀ a : Arrival, IllegalOnPort a →
    (∀ s : State, ∃ why, receive a s = .refused (.illegalCommand why)) ∧
    ∀ (s : State) (xs ys : List Arrival),
      (offerAll s (xs ++ a :: ys)).1 = (offerAll s (xs ++ ys)).1 ∧
      (offerAll s (xs ++ a :: ys)).2 =
        (offerAll s xs).2 ++ PortReply.illegalCommand :: (offerAll (offerAll s xs).1 ys).2

/-- A step consumes the oldest word delivered and executes the command it decodes to (R20, R48, R49); that the two streams
are one list in order of arrival is the model's choice (log entry 1). -/
def Obligations.StepExecutesTheDecodedCommand : Prop :=
  ∀ (s : State) (a : Arrival) (rest : List Arrival) (i : Instr),
    s.arrivals = a :: rest → unitField a.word = a.port → decode a.word = .ok i →
    step s = exec i { s with arrivals := rest }

/-- R187: with no word waiting a step leaves everything as it is, and a unit with no word waiting at its port holds its state
while the other unit steps. -/
def Obligations.UnitWithNoCommandHoldsItsState : Prop :=
  (∀ s : State, s.arrivals = [] → step s = .next s) ∧
  ∀ s t : State, step s = .next t →
    (streamOf .enc s.arrivals = [] → t.enc = s.enc) ∧ (streamOf .dec s.arrivals = [] → t.dec = s.dec)

/-- A run of legal words by steps ends in the state that offering them one by one reaches (R20, R48, R207). -/
def Obligations.RunOfStepsIsTheOfferedStream : Prop :=
  ∀ (s : State) (as : List Arrival), (∀ a ∈ as, ¬IllegalOnPort a) →
    Host.Core.run Sys2Proof.core as.length ({ s with arrivals := as } : State) =
      .next ({ (offerAll s as).1 with arrivals := [] } : State)

/-! ## The encoder -/

/-- R110: EINIT in any state; where ENC is initial already, it changes nothing. -/
def Obligations.EinitRestartsTheEncoder : Prop :=
  (∀ s : State, exec .einit s =
    .next { s with enc := { ebuf := 0, ecnt := 0, eout := [], eres := s.enc.eres } }) ∧
  ∀ s : State, EncInitial s.enc → exec .einit s = .next s

/-- R111: EPUT never fails, and under R14 it merges the byte above the valid bits, then takes at most one group of 13 or 14 bits
and appends its two digits; it changes nothing else. -/
def Obligations.EputAbsorbsOneByte : Prop :=
  (∀ (s : State) (b : Byte), ∃ t, exec (.eput b) s = .next t) ∧
  ∀ (s : State) (b : Byte), EncInv s.enc →
    let x := s.enc.ebuf.toNat + b.toNat * 2 ^ s.enc.ecnt.toNat
    let n := s.enc.ecnt.toNat + 8
    let w := if 643 < x % 8192 then 13 else 14
    let block := x % 2 ^ w
    ∃ t, exec (.eput b) s = .next t ∧ t.dec = s.dec ∧ t.arrivals = s.arrivals ∧ t.enc.eres = s.enc.eres ∧
      (n < 14 → t.enc.ebuf.toNat = x ∧ t.enc.ecnt.toNat = n ∧ t.enc.eout = s.enc.eout) ∧
      (14 ≤ n → t.enc.ebuf.toNat = x / 2 ^ w ∧ t.enc.ecnt.toNat = n - w ∧
        ∃ d0 d1 : Symbol, t.enc.eout = s.enc.eout ++ [d0, d1] ∧ d0.toNat = block % 94 ∧ d1.toNat = block / 94)

/-- R115 (which the spec marks as derived): under R14 the drain loop of EPUT runs at most once, and not at all exactly when ECNT + 8 < 14. -/
def Obligations.EputDrainLoopRunsAtMostOnce : Prop :=
  ∀ (u : EncUnit) (b : Byte), EncInv u →
    encPut b u = if u.ecnt.toNat + 8 < 14 then encMerge b u else encGroup (encMerge b u)

/-- R116: EEND appends the tail of the case table, publishes the whole of EOUT as one entry of ERES and returns ENC to its
initial state; it changes nothing else. -/
def Obligations.EendFlushesAndPublishes : Prop :=
  ∀ s : State, EncInv s.enc →
    ∃ tail : List Symbol,
      tail.map BitVec.toNat = tailValues s.enc.ecnt.toNat s.enc.ebuf.toNat ∧
      exec .eend s =
        .next { s with enc := { ebuf := 0, ecnt := 0, eout := [], eres := s.enc.eres ++ [s.enc.eout ++ tail] } }

/-- R174: no command of ENC faults, whatever the state: it has a next state in which DEC, and so DSTAT, DINFO and DRES, is as
before. -/
def Obligations.EncoderRaisesNoFault : Prop :=
  ∀ (i : Instr) (s : State), i.unit = .enc → ∃ t, exec i s = .next t ∧ t.dec = s.dec

/-- R14 (which the spec marks as derived): the encoder invariant holds after reset and after every ENC command; between the merge and the drain of EPUT the weaker
bound holds. -/
def Obligations.EncoderInvariantIsKept : Prop :=
  EncInv State.reset.enc ∧
  (∀ (i : Instr) (s t : State), i.unit = .enc → EncInv s.enc → exec i s = .next t → EncInv t.enc) ∧
  ∀ (u : EncUnit) (b : Byte), EncInv u →
    (encMerge b u).ecnt.toNat ≤ 21 ∧ (encMerge b u).ebuf.toNat < 2 ^ (encMerge b u).ecnt.toNat

/-! ## The width partition and the digits -/

/-- R90: the two classes of [0, 8835], as ranges and by count (which the spec marks as derived from the width rule). -/
def Obligations.WidthPartitionOfCombinedValues : Prop :=
  (∀ v : Value, v.toNat ≤ 8835 →
    (isShort v = true ↔ 644 ≤ v.toNat ∧ v.toNat ≤ 8191) ∧
    (isShort v = false ↔ v.toNat ≤ 643 ∨ 8192 ≤ v.toNat)) ∧
  (List.range 8836).countP (fun n => isShort (BitVec.ofNat 14 n)) = 7548 ∧
  (List.range 8836).countP (fun n => !isShort (BitVec.ofNat 14 n)) = 1288

/-- R91 and R99: whatever is in the accumulator, the group the encoder takes has a value of at most 8835 in the class of the width
it was taken with, so the decoder recovers that width; every value of [0, 8835] is such a group; a value fits its width. -/
def Obligations.EncoderGroupsMatchTheWidthRule : Prop :=
  (∀ buf : Acc, (encBlock buf).toNat ≤ 8835 ∧ widthOf (encBlock buf) = encWidth buf ∧
    (encWidth buf = 13 → 644 ≤ (encBlock buf).toNat ∧ (encBlock buf).toNat ≤ 8191) ∧
    (encWidth buf = 14 → (encBlock buf).toNat ≤ 643 ∨ 8192 ≤ (encBlock buf).toNat)) ∧
  ∀ v : Value, v.toNat ≤ 8835 → (∃ buf : Acc, encBlock buf = v) ∧ v.toNat < 2 ^ widthOf v

/-- R97 (which the spec marks as derived): DIGITS and COMBINE are inverse bijections between [0, 8835] and pairs of symbol values. -/
def Obligations.DigitsAndCombineAreInverse : Prop :=
  (∀ x : Value, x.toNat ≤ 8835 →
    combine (digitLow x) (digitHigh x) = x ∧ (digitLow x).toNat ≤ 93 ∧ (digitHigh x).toNat ≤ 93) ∧
  ∀ d0 d1 : Symbol, d0.toNat ≤ 93 → d1.toNat ≤ 93 →
    digitLow (combine d0 d1) = d0 ∧ digitHigh (combine d0 d1) = d1 ∧ (combine d0 d1).toNat ≤ 8835

/-! ## The decoder -/

/-- R130: DINIT in any state; where DEC is initial already, it changes nothing. -/
def Obligations.DinitRestartsTheDecoder : Prop :=
  (∀ s : State, exec .dinit s = .next { s with dec := {
    dbuf := 0, dcnt := 0, dpend := none, dpos := 0, dout := []
    dstat := { state := .run, cause := .none }, dinfo := { ch := 0, idx := 0 }, dres := s.dec.dres } }) ∧
  ∀ s : State, DecInitial s.dec → exec .dinit s = .next s

/-- R132: the first symbol of a pair is stored in DPEND and counted in DPOS; nothing else changes. The value 0 is stored as
`some 0`. -/
def Obligations.DsymStoresTheFirstOfAPair : Prop :=
  ∀ (s : State) (v : Symbol), s.dec.dstat.state = .run → s.dec.dpend = none → v.toNat ≤ 93 →
    exec (.dsym v) s = .next { s with dec := { s.dec with dpend := some v, dpos := s.dec.dpos + 1 } }

/-- R131, R133, R134, R135: the second symbol of a pair combines, the width is recovered from the value, the value is merged and
DPOS counts the symbol; nothing else changes. That one byte is written out below 16 bits and two from 16 on is R136, which the spec
marks as derived from R131 and R19. -/
def Obligations.DsymCompletesAPair : Prop :=
  ∀ (s : State) (p v : Symbol), s.dec.dstat.state = .run → DecInv s.dec → s.dec.dpend = some p →
    p.toNat ≤ 93 → v.toNat ≤ 93 →
    let c := p.toNat + 94 * v.toNat
    let w := if 643 < c % 8192 then 13 else 14
    let x := s.dec.dbuf.toNat + c * 2 ^ s.dec.dcnt.toNat
    let n := s.dec.dcnt.toNat + w
    ∃ t, exec (.dsym v) s = .next t ∧ t.enc = s.enc ∧ t.arrivals = s.arrivals ∧
      t.dec.dpend = none ∧ t.dec.dpos = s.dec.dpos + 1 ∧ t.dec.dstat = s.dec.dstat ∧ t.dec.dinfo = s.dec.dinfo ∧
      t.dec.dres = s.dec.dres ∧
      (n < 16 → t.dec.dout = s.dec.dout ++ [BitVec.ofNat 8 x] ∧ t.dec.dbuf.toNat = x / 2 ^ 8 ∧ t.dec.dcnt.toNat = n - 8) ∧
      (16 ≤ n → t.dec.dout = s.dec.dout ++ [BitVec.ofNat 8 x, BitVec.ofNat 8 (x / 2 ^ 8)] ∧
        t.dec.dbuf.toNat = x / 2 ^ 16 ∧ t.dec.dcnt.toNat = n - 16)

/-- R65 (e): DSYM with an operand of 94 to 127 is no command; its meaning stops by name, in every state. -/
def Obligations.DsymAboveNinetyThreeIsRefused : Prop :=
  ∀ (s : State) (v : Symbol), 93 < v.toNat → exec (.dsym v) s = .refused (.illegalCommand .symbolOutOfRange)

/-- R137 (with R138, R139): DEND in RUN. With a pending value p the tail step writes one byte and leaves a residual, which is
nonzero exactly when p >= 2^(8-DCNT); without one the residual is DBUF. Residual 0: DOUT is published as `ok` and the call's
registers return to their initial values. Otherwise: fault entry with InvalidPadding. -/
def Obligations.DendPublishesOrFaults : Prop :=
  ∀ s : State, s.dec.dstat.state = .run → DecInv s.dec →
    let x := s.dec.dbuf.toNat + (s.dec.dpend.getD 0).toNat * 2 ^ s.dec.dcnt.toNat
    let residual := if s.dec.dpend.isSome then x / 2 ^ 8 else s.dec.dbuf.toNat
    let bytes := if s.dec.dpend.isSome then s.dec.dout ++ [BitVec.ofNat 8 x] else s.dec.dout
    (residual = 0 → exec .dend s = .next { s with dec := { s.dec with
      dbuf := 0, dcnt := 0, dpend := none, dpos := 0, dout := [], dres := s.dec.dres ++ [.ok bytes] } }) ∧
    (residual ≠ 0 → exec .dend s = .next { s with dec := {
      dbuf := 0, dcnt := 0, dpend := none, dpos := 0, dout := [], dstat := { state := .fault, cause := .invalidPadding }
      dinfo := { ch := 0, idx := 0 }, dres := s.dec.dres ++ [.fault .invalidPadding] } }) ∧
    ∀ p, s.dec.dpend = some p → (residual ≠ 0 ↔ 2 ^ (8 - s.dec.dcnt.toNat) ≤ p.toNat)

/-- R140: DBAD in RUN enters InvalidCharacter with the character and DPOS as it stands; nothing of the call survives. -/
def Obligations.DbadEntersInvalidCharacter : Prop :=
  ∀ (s : State) (ch : CharCode), s.dec.dstat.state = .run →
    exec (.dbad ch) s = .next { s with dec := {
      dbuf := 0, dcnt := 0, dpend := none, dpos := 0, dout := [], dstat := { state := .fault, cause := .invalidCharacter }
      dinfo := { ch := ch, idx := s.dec.dpos }
      dres := s.dec.dres ++ [.fault (.invalidCharacter ch s.dec.dpos)] } }

/-- R178: fault entry, for either fault, field by field. -/
def Obligations.FaultEntryDiscardsTheCallAndRecordsTheFault : Prop :=
  (∀ (u : DecUnit) (ch : CharCode) (idx : Nat), u.raise (.invalidCharacter ch idx) =
    { dbuf := 0, dcnt := 0, dpend := none, dpos := 0, dout := [], dstat := { state := .fault, cause := .invalidCharacter }
      dinfo := { ch := ch, idx := idx }, dres := u.dres ++ [.fault (.invalidCharacter ch idx)] }) ∧
  ∀ u : DecUnit, u.raise .invalidPadding =
    { dbuf := 0, dcnt := 0, dpend := none, dpos := 0, dout := [], dstat := { state := .fault, cause := .invalidPadding }
      dinfo := { ch := 0, idx := 0 }, dres := u.dres ++ [.fault .invalidPadding] }

/-- R141: in FAULT state DSYM, DBAD and DEND are consumed and change nothing; no stream of commands without DINIT changes DEC;
DINIT leaves FAULT. In the clause about streams the commands go ahead of any words that stand in `arrivals`, which is the model's
choice (log entry 20). -/
def Obligations.FaultStateIsLeftByDinitAlone : Prop :=
  ∀ s : State, s.dec.dstat.state = .fault →
    (∀ v : Symbol, v.toNat ≤ 93 → exec (.dsym v) s = .next s) ∧ (∀ ch, exec (.dbad ch) s = .next s) ∧
    exec .dend s = .next s ∧
    (∀ is : List Instr, .dinit ∉ is → (issue s is).dec = s.dec) ∧
    ∃ t, exec .dinit s = .next t ∧ t.dec.dstat.state = .run

/-- R19 (which the spec marks as derived): the decoder invariant holds after reset and, from RUN, after every DEC command that leaves DEC in RUN; between the merge
and the drain of DSYM the weaker bound holds. -/
def Obligations.DecoderInvariantIsKept : Prop :=
  DecInv State.reset.dec ∧
  (∀ (i : Instr) (s t : State), i.unit = .dec → s.dec.dpend.all Symbol.legal = true →
    (s.dec.dstat.state = .run → DecInv s.dec) → exec i s = .next t →
    t.dec.dpend.all Symbol.legal = true ∧ (t.dec.dstat.state = .run → DecInv t.dec)) ∧
  ∀ (u : DecUnit) (v : Value), DecInv u → v.toNat ≤ 8835 →
    (decMerge v u).dcnt.toNat ≤ 21 ∧ (decMerge v u).dbuf.toNat < 2 ^ (decMerge v u).dcnt.toNat

/-- R23: what the host reads of DSTAT and DINFO: bit 0 is the state, bits 2:1 the cause, the code 3 never occurs, and the cause is
nonzero exactly in FAULT; DINFO holds the character in its low 21 bits and the index above. -/
def Obligations.StatusWordsReadAsLaidOut : Prop :=
  ∀ s : State, DecStatusInv s.dec →
    (s.observe.dstat.getLsbD 0 = true ↔ s.dec.dstat.state = .fault) ∧
    (s.observe.dstat.extractLsb' 1 2 = 1 ↔ s.dec.dstat.cause = .invalidCharacter) ∧
    (s.observe.dstat.extractLsb' 1 2 = 2 ↔ s.dec.dstat.cause = .invalidPadding) ∧
    s.observe.dstat.extractLsb' 1 2 ≠ 3 ∧
    (s.observe.dstat.extractLsb' 1 2 ≠ 0 ↔ s.observe.dstat.getLsbD 0 = true) ∧
    s.observe.dinfo % 2 ^ 21 = s.dec.dinfo.ch.toNat ∧ s.observe.dinfo / 2 ^ 21 = s.dec.dinfo.idx

/-! ## Whole-machine rules -/

/-- R10: a command of one unit neither writes nor reads a register of the other. -/
def Obligations.UnitsShareNoRegister : Prop :=
  (∀ (i : Instr) (s t : State), exec i s = .next t →
    t.arrivals = s.arrivals ∧ (i.unit = .enc → t.dec = s.dec) ∧ (i.unit = .dec → t.enc = s.enc)) ∧
  ∀ (i : Instr) (s s' t : State), exec i s = .next t →
    (i.unit = .enc → s.enc = s'.enc → ∃ t', exec i s' = .next t' ∧ t'.enc = t.enc) ∧
    (i.unit = .dec → s.dec = s'.dec → ∃ t', exec i s' = .next t' ∧ t'.dec = t.dec)

/-- R24: what each command appends to the logs, and that nothing else changes them. -/
def Obligations.LogsGrowByPublicationAlone : Prop :=
  State.reset.enc.eres = [] ∧ State.reset.dec.dres = [] ∧
  ∀ (i : Instr) (s t : State), exec i s = .next t →
    (i = .eend → ∃ tail, t.enc.eres = s.enc.eres ++ [s.enc.eout ++ tail] ∧ tail.length ≤ 2) ∧
    (i ≠ .eend → t.enc.eres = s.enc.eres) ∧
    (s.dec.dstat.state = .run → ∀ ch, i = .dbad ch →
      t.dec.dres = s.dec.dres ++ [.fault (.invalidCharacter ch s.dec.dpos)]) ∧
    (s.dec.dstat.state = .run → i = .dend →
      (t.dec.dstat.state = .run ∧ ∃ tail, tail.length ≤ 1 ∧ t.dec.dres = s.dec.dres ++ [.ok (s.dec.dout ++ tail)]) ∨
      (t.dec.dstat.state = .fault ∧ t.dec.dres = s.dec.dres ++ [.fault .invalidPadding])) ∧
    (s.dec.dstat.state = .fault ∨ (i ≠ .dend ∧ ∀ ch, i ≠ .dbad ch) → t.dec.dres = s.dec.dres)

/-- The invariant of the machine (R14, R15, R18, R19, R21, R23, R118) is kept by every step, from every state that meets it. -/
def Obligations.EveryStepKeepsTheMachineInvariant : Prop :=
  ∀ s t : State, MachineInv s → step s = .next t → MachineInv t

/-- The invariant holds right after reset. -/
def Obligations.ResetMeetsTheMachineInvariant : Prop := MachineInv State.reset

/-- R51 (which the spec marks as derived): two deliveries of the same two command streams, interleaved in any two ways, end in the same state.
That both go ahead of any words that stand in `arrivals` is the model's choice (log entry 20). -/
def Obligations.EveryInterleavingEndsInTheSameState : Prop :=
  ∀ (s : State) (as bs : List Arrival),
    streamOf .enc as = streamOf .enc bs → streamOf .dec as = streamOf .dec bs →
    (offerAll s as).1 = (offerAll s bs).1

/-! ## Invocations -/

/-- R120: whatever state it is issued in, ENCODE publishes one entry, which depends on the bytes alone; ENC ends in its initial
state and nothing else changes. That the call goes ahead of any words that stand in `arrivals` is the model's choice (log
entry 20). -/
def Obligations.EncodeCallPublishesAFunctionOfItsBytes : Prop :=
  ∀ (s : State) (bs : List Byte), ∃ vs, encodeValues bs = some vs ∧
    issue s (encodeCommands bs) =
      { s with enc := { ebuf := 0, ecnt := 0, eout := [], eres := s.enc.eres ++ [vs] } }

/-- R118: ENCODE of no bytes publishes no symbols; every entry is whole digit pairs and then a tail, all symbol values. That the
pairs carry the first bits of the byte stream (R42) in order and that the tail has the shape of the flush of the rest are R43 and
R69, which the spec marks as derived, from R42, R111, R113 and R116. -/
def Obligations.EncodedEntryIsPairsAndTail : Prop :=
  encodeValues [] = some [] ∧
  ∀ bs : List Byte, ∃ (pairs tail : List Symbol) (n x : Nat),
    encodeValues bs = some (pairs ++ tail) ∧ (pairs ++ tail).all Symbol.legal = true ∧ pairs.length % 2 = 0 ∧
    n ≤ 13 ∧ x < 2 ^ n ∧ tail.map BitVec.toNat = tailValues n x ∧
    streamNat bs = (pairBits pairs).1 + x * 2 ^ (pairBits pairs).2 ∧ 8 * bs.length = (pairBits pairs).2 + n

/-- R121 (which the spec marks as derived): how many symbols L bytes give. -/
def Obligations.EncodedLengthIsBounded : Prop :=
  ∀ bs : List Byte, ∃ vs, encodeValues bs = some vs ∧
    2 * (8 * bs.length / 14) ≤ vs.length ∧ vs.length ≤ 2 * (8 * bs.length / 13) + 2

/-- R144 (which the spec marks as derived): whatever state it is issued in, DECODE of legal items publishes exactly one entry, which depends on the items alone;
`ok` leaves DEC initial and has between P and 2P bytes and one for a tail, a fault leaves DEC in FAULT; ENC is untouched. That the
call goes ahead of any words that stand in `arrivals` is the model's choice (log entry 20). -/
def Obligations.DecodeCallPublishesAFunctionOfItsItems : Prop :=
  ∀ (s : State) (xs : List Item), (∀ x ∈ xs, ItemLegal x) → ∃ r, decodeValues xs = some r ∧
    (issue s (decodeCommands xs)).enc = s.enc ∧ (issue s (decodeCommands xs)).arrivals = s.arrivals ∧
    (issue s (decodeCommands xs)).dec.dres = s.dec.dres ++ [r] ∧
    (∀ bytes, r = .ok bytes → DecInitial (issue s (decodeCommands xs)).dec ∧
      xs.length / 2 + xs.length % 2 ≤ bytes.length ∧ bytes.length ≤ 2 * (xs.length / 2) + xs.length % 2) ∧
    ∀ f, r = .fault f → (issue s (decodeCommands xs)).dec.dstat = { state := .fault, cause := f.cause } ∧
      (issue s (decodeCommands xs)).dec.dinfo = f.info

/-- R146 (which the spec marks as derived): decoding nothing gives no bytes; the result is InvalidCharacter exactly when some item is a character outside the
alphabet, and it names the first one and its index. -/
def Obligations.FirstBadCharacterIsTheOneReported : Prop :=
  decodeValues [] = some (.ok []) ∧
  ∀ xs : List Item, (∀ x ∈ xs, ItemLegal x) → ∀ (ch : CharCode) (k : Nat),
    decodeValues xs = some (.fault (.invalidCharacter ch k)) ↔
      xs[k]? = some (.bad ch) ∧ ∀ j < k, ∃ v, xs[j]? = some (.sym v)

/-- R142: decoding the encoding of a byte sequence publishes that byte sequence. -/
def Obligations.DecodeOfEncodeIsTheBytes : Prop :=
  ∀ bs : List Byte, ∃ vs, encodeValues bs = some vs ∧ decodeValues (vs.map Item.sym) = some (.ok bs)

/-- R163 (with R160 to R162): the round trip at the level of characters, for every alphabet that meets the contract; and the
encoded characters are printable and no space. -/
def Obligations.HostRoundTripForEveryAlphabet : Prop :=
  ∀ (A : Alphabet) (bs : List Byte), A.Valid → ∃ text, hostEncode A bs = some text ∧
    hostDecode A text = some (.ok bs) ∧ ∀ c ∈ text, 33 ≤ c.toNat ∧ c.toNat ≤ 126

/-- R143 (which the spec marks as derived) and the resolution C1: any one symbol decodes to its value; two symbols decode to their
combined value if it is at most 255 and fail otherwise; so `[a]` and `[a, 0]` decode alike, and the encoder gives `[a]`; and any
encoding that ends in one trailing symbol made from 7 or 8 remaining bits decodes to the same bytes with a 0 appended. -/
def Obligations.DecoderIsNotInjective : Prop :=
  (∀ p : Symbol, p.toNat ≤ 93 → decodeValues [.sym p] = some (.ok [p.setWidth 8])) ∧
  (∀ p q : Symbol, p.toNat ≤ 93 → q.toNat ≤ 93 → decodeValues [.sym p, .sym q] =
    some (if p.toNat + 94 * q.toNat ≤ 255 then .ok [BitVec.ofNat 8 (p.toNat + 94 * q.toNat)] else .fault .invalidPadding)) ∧
  (∀ p : Symbol, p.toNat ≤ 93 → encodeValues [p.setWidth 8] = some [p]) ∧
  ∀ (bs : List Byte) (pairs : List Symbol) (x : Symbol) (n : Nat),
    encodeValues bs = some (pairs ++ [x]) → pairs.length % 2 = 0 → 8 * bs.length = (pairBits pairs).2 + n → n = 7 ∨ n = 8 →
    decodeValues ((pairs ++ [x, 0]).map Item.sym) = some (.ok bs)

/-- R207: an ENCODE and a DECODE of legal items after reset are a complete run. -/
def Obligations.WholeCallsMakeACompleteRun : Prop :=
  ∀ (bs : List Byte) (xs : List Item), (∀ x ∈ xs, ItemLegal x) →
    Complete (issue (issue State.reset (encodeCommands bs)) (decodeCommands xs))
end

