-- ==== Sys2Proof/Laws/Ops.lean ====
section
/-! SUPPORT. What the shared operations compute, as numbers: each says once everything its operation does, so that no proof
unfolds the operation (spec/40_bitbuffer_and_partition.md R92 to R98). -/

namespace Sys2Proof.Machine

theorem legal_iff (v : Symbol) : Symbol.legal v = true ↔ v.toNat ≤ 93 := by simp [Symbol.legal]

theorem isShort_iff {n : Nat} (x : BitVec n) : isShort x = true ↔ 643 < x.toNat % 8192 := by
  simp [isShort]

theorem isShort_false_iff {n : Nat} (x : BitVec n) : isShort x = false ↔ x.toNat % 8192 ≤ 643 := by
  simp [isShort]

theorem widthOf_eq (v : Value) : widthOf v = if 643 < v.toNat % 8192 then 13 else 14 := by
  by_cases h : 643 < v.toNat % 8192
  · simp [widthOf, (isShort_iff v).2 h, h]
  · simp [widthOf, (isShort_false_iff v).2 (Nat.le_of_not_lt h), h]

theorem eDrain_iff (c : Count) : eDrain c = true ↔ 14 ≤ c.toNat := by simp [eDrain]

theorem dDrain_iff (c : Count) : dDrain c = true ↔ 8 ≤ c.toNat := by simp [dDrain]

theorem needSecond_iff (b : Acc) (c : Count) : needSecond b c = true ↔ 94 ≤ b.toNat ∨ 8 < c.toNat := by
  simp [needSecond]

theorem padOk_iff (b : Acc) : padOk b = true ↔ b = 0 := by
  simp [padOk, BitVec.toNat_eq]

theorem zextByte_toNat (b : Byte) : (zextByte b).toNat = b.toNat := by
  simp [zextByte]; omega

theorem zextValue_toNat (v : Value) : (zextValue v).toNat = v.toNat := by
  simp [zextValue]; omega

theorem zextSymbol_toNat (p : Symbol) : (zextSymbol p).toNat = p.toNat := by
  simp [zextSymbol]; omega

/-- MERGE is a sum where the buffer is below its count and nothing leaves the register (R93). -/
theorem merge_toNat (buf : Acc) (cnt : Count) (x : Acc) (hb : buf.toNat < 2 ^ cnt.toNat)
    (hx : x.toNat * 2 ^ cnt.toNat < 2 ^ 21) : (merge buf cnt x).toNat = buf.toNat + x.toNat * 2 ^ cnt.toNat := by
  have hs : (x <<< cnt.toNat).toNat = x.toNat <<< cnt.toNat := by
    rw [BitVec.toNat_shiftLeft, Nat.shiftLeft_eq, Nat.mod_eq_of_lt hx]
  rw [merge, BitVec.toNat_or, hs, Nat.or_comm, ← Nat.shiftLeft_add_eq_or_of_lt hb, Nat.shiftLeft_eq, Nat.add_comm]

theorem takeOut_toNat (w : Nat) (buf : Acc) : (takeOut w buf).toNat = buf.toNat % 2 ^ w := by
  simp [takeOut]

theorem takeBuf_toNat (w : Nat) (buf : Acc) : (takeBuf w buf).toNat = buf.toNat / 2 ^ w := by
  simp [takeBuf, Nat.shiftRight_eq_div_pow]

theorem takeCnt_toNat (w : Nat) (cnt : Count) (h : w ≤ cnt.toNat) : (takeCnt w cnt).toNat = cnt.toNat - w := by
  have := cnt.isLt
  simp only [takeCnt, BitVec.toNat_sub, BitVec.toNat_ofNat]
  omega

theorem addCnt_toNat (w : Nat) (cnt : Count) (h : cnt.toNat + w < 32) : (addCnt w cnt).toNat = cnt.toNat + w := by
  simp only [addCnt, BitVec.toNat_add, BitVec.toNat_ofNat]
  omega

/-- TAKE keeps the buffer below its count (R94). -/
theorem takeBuf_lt (w : Nat) (buf : Acc) (cnt : Count) (h : w ≤ cnt.toNat) (hb : buf.toNat < 2 ^ cnt.toNat) :
    (takeBuf w buf).toNat < 2 ^ (takeCnt w cnt).toNat := by
  rw [takeBuf_toNat, takeCnt_toNat w cnt h, Nat.div_lt_iff_lt_mul (by positivity), ← Nat.pow_add, Nat.sub_add_cancel h]
  exact hb

theorem digitLow_toNat {n : Nat} (x : BitVec n) : (digitLow x).toNat = x.toNat % 94 := by
  simp only [digitLow, Config.radix, BitVec.toNat_ofNat]
  omega

/-- The high digit, exact for every value up to 94 * 128 - 1, so for every value the block splits (R95). -/
theorem digitHigh_toNat {n : Nat} (x : BitVec n) (h : x.toNat < 12032) : (digitHigh x).toNat = x.toNat / 94 := by
  simp only [digitHigh, Config.radix, BitVec.toNat_ofNat]
  omega

theorem combine_toNat (d0 d1 : Symbol) : (combine d0 d1).toNat = d0.toNat + 94 * d1.toNat := by
  have := d0.isLt
  have := d1.isLt
  simp only [combine, Config.radix, BitVec.toNat_ofNat]
  omega

end Sys2Proof.Machine
end

