-- ==== Sys2Proof/Laws/State.lean ====
section
/-! SUPPORT. What each named update of the registers leaves and writes, one lemma per field per update. -/

namespace Sys2Proof.Machine

@[simp] theorem EncUnit.setBits_ebuf (u : EncUnit) (buf : Acc) (cnt : Count) : (u.setBits buf cnt).ebuf = buf := rfl
@[simp] theorem EncUnit.setBits_ecnt (u : EncUnit) (buf : Acc) (cnt : Count) : (u.setBits buf cnt).ecnt = cnt := rfl
@[simp] theorem EncUnit.setBits_eout (u : EncUnit) (buf : Acc) (cnt : Count) : (u.setBits buf cnt).eout = u.eout := rfl
@[simp] theorem EncUnit.setBits_eres (u : EncUnit) (buf : Acc) (cnt : Count) : (u.setBits buf cnt).eres = u.eres := rfl

@[simp] theorem EncUnit.append_ebuf (u : EncUnit) (xs : List Symbol) : (u.append xs).ebuf = u.ebuf := rfl
@[simp] theorem EncUnit.append_ecnt (u : EncUnit) (xs : List Symbol) : (u.append xs).ecnt = u.ecnt := rfl
@[simp] theorem EncUnit.append_eout (u : EncUnit) (xs : List Symbol) : (u.append xs).eout = u.eout ++ xs := rfl
@[simp] theorem EncUnit.append_eres (u : EncUnit) (xs : List Symbol) : (u.append xs).eres = u.eres := rfl

@[simp] theorem EncUnit.publish_ebuf (u : EncUnit) : (u.publish).ebuf = u.ebuf := rfl
@[simp] theorem EncUnit.publish_ecnt (u : EncUnit) : (u.publish).ecnt = u.ecnt := rfl
@[simp] theorem EncUnit.publish_eout (u : EncUnit) : (u.publish).eout = u.eout := rfl
@[simp] theorem EncUnit.publish_eres (u : EncUnit) : (u.publish).eres = u.eres ++ [u.eout] := rfl

@[simp] theorem EncUnit.clear_ebuf (u : EncUnit) : (u.clear).ebuf = 0 := rfl
@[simp] theorem EncUnit.clear_ecnt (u : EncUnit) : (u.clear).ecnt = 0 := rfl
@[simp] theorem EncUnit.clear_eout (u : EncUnit) : (u.clear).eout = [] := rfl
@[simp] theorem EncUnit.clear_eres (u : EncUnit) : (u.clear).eres = u.eres := rfl

@[simp] theorem DecUnit.setBits_dbuf (u : DecUnit) (buf : Acc) (cnt : Count) : (u.setBits buf cnt).dbuf = buf := rfl
@[simp] theorem DecUnit.setBits_dcnt (u : DecUnit) (buf : Acc) (cnt : Count) : (u.setBits buf cnt).dcnt = cnt := rfl
@[simp] theorem DecUnit.setBits_dpend (u : DecUnit) (buf : Acc) (cnt : Count) : (u.setBits buf cnt).dpend = u.dpend := rfl
@[simp] theorem DecUnit.setBits_dpos (u : DecUnit) (buf : Acc) (cnt : Count) : (u.setBits buf cnt).dpos = u.dpos := rfl
@[simp] theorem DecUnit.setBits_dout (u : DecUnit) (buf : Acc) (cnt : Count) : (u.setBits buf cnt).dout = u.dout := rfl
@[simp] theorem DecUnit.setBits_dstat (u : DecUnit) (buf : Acc) (cnt : Count) : (u.setBits buf cnt).dstat = u.dstat := rfl
@[simp] theorem DecUnit.setBits_dinfo (u : DecUnit) (buf : Acc) (cnt : Count) : (u.setBits buf cnt).dinfo = u.dinfo := rfl
@[simp] theorem DecUnit.setBits_dres (u : DecUnit) (buf : Acc) (cnt : Count) : (u.setBits buf cnt).dres = u.dres := rfl

@[simp] theorem DecUnit.append_dbuf (u : DecUnit) (bs : List Byte) : (u.append bs).dbuf = u.dbuf := rfl
@[simp] theorem DecUnit.append_dcnt (u : DecUnit) (bs : List Byte) : (u.append bs).dcnt = u.dcnt := rfl
@[simp] theorem DecUnit.append_dpend (u : DecUnit) (bs : List Byte) : (u.append bs).dpend = u.dpend := rfl
@[simp] theorem DecUnit.append_dpos (u : DecUnit) (bs : List Byte) : (u.append bs).dpos = u.dpos := rfl
@[simp] theorem DecUnit.append_dout (u : DecUnit) (bs : List Byte) : (u.append bs).dout = u.dout ++ bs := rfl
@[simp] theorem DecUnit.append_dstat (u : DecUnit) (bs : List Byte) : (u.append bs).dstat = u.dstat := rfl
@[simp] theorem DecUnit.append_dinfo (u : DecUnit) (bs : List Byte) : (u.append bs).dinfo = u.dinfo := rfl
@[simp] theorem DecUnit.append_dres (u : DecUnit) (bs : List Byte) : (u.append bs).dres = u.dres := rfl

@[simp] theorem DecUnit.setPend_dbuf (u : DecUnit) (p : Option Symbol) : (u.setPend p).dbuf = u.dbuf := rfl
@[simp] theorem DecUnit.setPend_dcnt (u : DecUnit) (p : Option Symbol) : (u.setPend p).dcnt = u.dcnt := rfl
@[simp] theorem DecUnit.setPend_dpend (u : DecUnit) (p : Option Symbol) : (u.setPend p).dpend = p := rfl
@[simp] theorem DecUnit.setPend_dpos (u : DecUnit) (p : Option Symbol) : (u.setPend p).dpos = u.dpos := rfl
@[simp] theorem DecUnit.setPend_dout (u : DecUnit) (p : Option Symbol) : (u.setPend p).dout = u.dout := rfl
@[simp] theorem DecUnit.setPend_dstat (u : DecUnit) (p : Option Symbol) : (u.setPend p).dstat = u.dstat := rfl
@[simp] theorem DecUnit.setPend_dinfo (u : DecUnit) (p : Option Symbol) : (u.setPend p).dinfo = u.dinfo := rfl
@[simp] theorem DecUnit.setPend_dres (u : DecUnit) (p : Option Symbol) : (u.setPend p).dres = u.dres := rfl

@[simp] theorem DecUnit.bumpPos_dbuf (u : DecUnit) : (u.bumpPos).dbuf = u.dbuf := rfl
@[simp] theorem DecUnit.bumpPos_dcnt (u : DecUnit) : (u.bumpPos).dcnt = u.dcnt := rfl
@[simp] theorem DecUnit.bumpPos_dpend (u : DecUnit) : (u.bumpPos).dpend = u.dpend := rfl
@[simp] theorem DecUnit.bumpPos_dpos (u : DecUnit) : (u.bumpPos).dpos = u.dpos + 1 := rfl
@[simp] theorem DecUnit.bumpPos_dout (u : DecUnit) : (u.bumpPos).dout = u.dout := rfl
@[simp] theorem DecUnit.bumpPos_dstat (u : DecUnit) : (u.bumpPos).dstat = u.dstat := rfl
@[simp] theorem DecUnit.bumpPos_dinfo (u : DecUnit) : (u.bumpPos).dinfo = u.dinfo := rfl
@[simp] theorem DecUnit.bumpPos_dres (u : DecUnit) : (u.bumpPos).dres = u.dres := rfl

@[simp] theorem DecUnit.publish_dbuf (u : DecUnit) (r : DecResult) : (u.publish r).dbuf = u.dbuf := rfl
@[simp] theorem DecUnit.publish_dcnt (u : DecUnit) (r : DecResult) : (u.publish r).dcnt = u.dcnt := rfl
@[simp] theorem DecUnit.publish_dpend (u : DecUnit) (r : DecResult) : (u.publish r).dpend = u.dpend := rfl
@[simp] theorem DecUnit.publish_dpos (u : DecUnit) (r : DecResult) : (u.publish r).dpos = u.dpos := rfl
@[simp] theorem DecUnit.publish_dout (u : DecUnit) (r : DecResult) : (u.publish r).dout = u.dout := rfl
@[simp] theorem DecUnit.publish_dstat (u : DecUnit) (r : DecResult) : (u.publish r).dstat = u.dstat := rfl
@[simp] theorem DecUnit.publish_dinfo (u : DecUnit) (r : DecResult) : (u.publish r).dinfo = u.dinfo := rfl
@[simp] theorem DecUnit.publish_dres (u : DecUnit) (r : DecResult) : (u.publish r).dres = u.dres ++ [r] := rfl

@[simp] theorem DecUnit.setStatus_dbuf (u : DecUnit) (d : DStat) (i : DInfo) : (u.setStatus d i).dbuf = u.dbuf := rfl
@[simp] theorem DecUnit.setStatus_dcnt (u : DecUnit) (d : DStat) (i : DInfo) : (u.setStatus d i).dcnt = u.dcnt := rfl
@[simp] theorem DecUnit.setStatus_dpend (u : DecUnit) (d : DStat) (i : DInfo) : (u.setStatus d i).dpend = u.dpend := rfl
@[simp] theorem DecUnit.setStatus_dpos (u : DecUnit) (d : DStat) (i : DInfo) : (u.setStatus d i).dpos = u.dpos := rfl
@[simp] theorem DecUnit.setStatus_dout (u : DecUnit) (d : DStat) (i : DInfo) : (u.setStatus d i).dout = u.dout := rfl
@[simp] theorem DecUnit.setStatus_dstat (u : DecUnit) (d : DStat) (i : DInfo) : (u.setStatus d i).dstat = d := rfl
@[simp] theorem DecUnit.setStatus_dinfo (u : DecUnit) (d : DStat) (i : DInfo) : (u.setStatus d i).dinfo = i := rfl
@[simp] theorem DecUnit.setStatus_dres (u : DecUnit) (d : DStat) (i : DInfo) : (u.setStatus d i).dres = u.dres := rfl

@[simp] theorem DecUnit.clearCall_dbuf (u : DecUnit) : (u.clearCall).dbuf = 0 := rfl
@[simp] theorem DecUnit.clearCall_dcnt (u : DecUnit) : (u.clearCall).dcnt = 0 := rfl
@[simp] theorem DecUnit.clearCall_dpend (u : DecUnit) : (u.clearCall).dpend = none := rfl
@[simp] theorem DecUnit.clearCall_dpos (u : DecUnit) : (u.clearCall).dpos = 0 := rfl
@[simp] theorem DecUnit.clearCall_dout (u : DecUnit) : (u.clearCall).dout = [] := rfl
@[simp] theorem DecUnit.clearCall_dstat (u : DecUnit) : (u.clearCall).dstat = u.dstat := rfl
@[simp] theorem DecUnit.clearCall_dinfo (u : DecUnit) : (u.clearCall).dinfo = u.dinfo := rfl
@[simp] theorem DecUnit.clearCall_dres (u : DecUnit) : (u.clearCall).dres = u.dres := rfl

@[simp] theorem DecUnit.raise_dbuf (u : DecUnit) (f : DecFault) : (u.raise f).dbuf = 0 := rfl
@[simp] theorem DecUnit.raise_dcnt (u : DecUnit) (f : DecFault) : (u.raise f).dcnt = 0 := rfl
@[simp] theorem DecUnit.raise_dpend (u : DecUnit) (f : DecFault) : (u.raise f).dpend = none := rfl
@[simp] theorem DecUnit.raise_dpos (u : DecUnit) (f : DecFault) : (u.raise f).dpos = 0 := rfl
@[simp] theorem DecUnit.raise_dout (u : DecUnit) (f : DecFault) : (u.raise f).dout = [] := rfl
@[simp] theorem DecUnit.raise_dstat (u : DecUnit) (f : DecFault) : (u.raise f).dstat = { state := .fault, cause := f.cause } := rfl
@[simp] theorem DecUnit.raise_dinfo (u : DecUnit) (f : DecFault) : (u.raise f).dinfo = f.info := rfl
@[simp] theorem DecUnit.raise_dres (u : DecUnit) (f : DecFault) : (u.raise f).dres = u.dres ++ [.fault f] := rfl

@[simp] theorem DecUnit.init_dbuf (u : DecUnit) : (u.init).dbuf = 0 := rfl
@[simp] theorem DecUnit.init_dcnt (u : DecUnit) : (u.init).dcnt = 0 := rfl
@[simp] theorem DecUnit.init_dpend (u : DecUnit) : (u.init).dpend = none := rfl
@[simp] theorem DecUnit.init_dpos (u : DecUnit) : (u.init).dpos = 0 := rfl
@[simp] theorem DecUnit.init_dout (u : DecUnit) : (u.init).dout = [] := rfl
@[simp] theorem DecUnit.init_dstat (u : DecUnit) : (u.init).dstat = { state := .run, cause := .none } := rfl
@[simp] theorem DecUnit.init_dinfo (u : DecUnit) : (u.init).dinfo = { ch := 0, idx := 0 } := rfl
@[simp] theorem DecUnit.init_dres (u : DecUnit) : (u.init).dres = u.dres := rfl

@[simp] theorem State.onEnc_enc (s : State) (f : EncUnit → EncUnit) : (s.onEnc f).enc = f s.enc := rfl
@[simp] theorem State.onEnc_dec (s : State) (f : EncUnit → EncUnit) : (s.onEnc f).dec = s.dec := rfl
@[simp] theorem State.onEnc_arrivals (s : State) (f : EncUnit → EncUnit) : (s.onEnc f).arrivals = s.arrivals := rfl

@[simp] theorem State.onDec_enc (s : State) (f : DecUnit → DecUnit) : (s.onDec f).enc = s.enc := rfl
@[simp] theorem State.onDec_dec (s : State) (f : DecUnit → DecUnit) : (s.onDec f).dec = f s.dec := rfl
@[simp] theorem State.onDec_arrivals (s : State) (f : DecUnit → DecUnit) : (s.onDec f).arrivals = s.arrivals := rfl

@[simp] theorem State.resetEvent_enc (s : State) : (s.resetEvent).enc = EncUnit.reset := rfl
@[simp] theorem State.resetEvent_dec (s : State) : (s.resetEvent).dec = DecUnit.reset := rfl
@[simp] theorem State.resetEvent_arrivals (s : State) : (s.resetEvent).arrivals = s.arrivals := rfl

theorem DecUnit.whenRun_run (u : DecUnit) (f : DecUnit → DecUnit) (h : u.dstat.state = .run) : u.whenRun f = f u := by
  simp [DecUnit.whenRun, h]

theorem DecUnit.whenRun_fault (u : DecUnit) (f : DecUnit → DecUnit) (h : u.dstat.state = .fault) : u.whenRun f = u := by
  simp [DecUnit.whenRun, h]

end Sys2Proof.Machine
end

