-- ==== Sys2Proof/Laws/Machine.lean ====
section
/-! SUPPORT. What the meanings, the ports and the step answer, one lemma each, so that no proof unfolds them. -/

namespace Sys2Proof.Machine

@[simp] theorem exec_einit (s : State) : exec .einit s = .next (s.onEnc EncUnit.clear) := rfl
@[simp] theorem exec_eput (b : Byte) (s : State) : exec (.eput b) s = .next (s.onEnc (encPut b)) := rfl
@[simp] theorem exec_eend (s : State) : exec .eend s = .next (s.onEnc encEnd) := rfl
@[simp] theorem exec_dinit (s : State) : exec .dinit s = .next (s.onDec DecUnit.init) := rfl
@[simp] theorem exec_dbad (ch : CharCode) (s : State) :
    exec (.dbad ch) s = .next (s.onDec fun u => u.whenRun (decBad ch)) := rfl
@[simp] theorem exec_dend (s : State) : exec .dend s = .next (s.onDec fun u => u.whenRun decEnd) := rfl

theorem exec_dsym (v : Symbol) (s : State) (h : Symbol.legal v = true) :
    exec (.dsym v) s = .next (s.onDec fun u => u.whenRun (decSymbol v)) := if_pos h

theorem exec_dsym_illegal (v : Symbol) (s : State) (h : Symbol.legal v = false) :
    exec (.dsym v) s = .refused (.illegalCommand .symbolOutOfRange) := by
  simp [exec, execDsym, h]

/-- The effect of a command on its own unit, for ENC. -/
def encEffect : Instr → EncUnit → EncUnit
  | .einit => EncUnit.clear
  | .eput b => encPut b
  | .eend => encEnd
  | .dinit | .dsym _ | .dbad _ | .dend => id

/-- The effect of a command on its own unit, for DEC. -/
def decEffect : Instr → DecUnit → DecUnit
  | .dinit => DecUnit.init
  | .dsym v => fun u => u.whenRun (decSymbol v)
  | .dbad ch => fun u => u.whenRun (decBad ch)
  | .dend => fun u => u.whenRun decEnd
  | .einit | .eput _ | .eend => id

/-- Everything a legal command can do: it has a next state, which is its effect on its own unit. -/
theorem exec_of_wf (i : Instr) (s : State) (h : i.wf = true) :
    exec i s = .next { s with enc := encEffect i s.enc, dec := decEffect i s.dec } := by
  cases i with
  | dsym v => exact exec_dsym v s h
  | _ => rfl

/-- A command that answers a next state is legal. -/
theorem wf_of_exec_next {i : Instr} {s t : State} (h : exec i s = .next t) : i.wf = true := by
  cases i with
  | dsym v =>
    by_contra hv
    have hv' : Symbol.legal v = false := by simpa [Instr.wf] using hv
    rw [exec_dsym_illegal v s hv'] at h
    cases h
  | _ => rfl

theorem encDrain_stop (n : Nat) (u : EncUnit) (h : u.ecnt.toNat < 14) : encDrain n u = u := by
  cases n with
  | zero => rfl
  | succ n => simp [encDrain, eDrain, Nat.not_le.2 h]

theorem encDrain_go (n : Nat) (u : EncUnit) (h : 14 ≤ u.ecnt.toNat) :
    encDrain (n + 1) u = encDrain n (encGroup u) := by
  simp [encDrain, eDrain, h]

theorem decDrain_stop (n : Nat) (u : DecUnit) (h : u.dcnt.toNat < 8) : decDrain n u = u := by
  cases n with
  | zero => rfl
  | succ n => simp [decDrain, dDrain, Nat.not_le.2 h]

theorem decDrain_go (n : Nat) (u : DecUnit) (h : 8 ≤ u.dcnt.toNat) :
    decDrain (n + 1) u = decDrain n (decByte u) := by
  simp [decDrain, dDrain, h]

theorem encWidth_eq (buf : Acc) : encWidth buf = if 643 < buf.toNat % 8192 then 13 else 14 := by
  by_cases h : 643 < buf.toNat % 8192
  · simp [encWidth, (isShort_iff buf).2 h, h]
  · simp [encWidth, (isShort_false_iff buf).2 (Nat.le_of_not_lt h), h]

theorem encBlock_toNat (buf : Acc) :
    (encBlock buf).toNat = if 643 < buf.toNat % 8192 then buf.toNat % 8192 else buf.toNat % 16384 := by
  by_cases h : 643 < buf.toNat % 8192
  · rw [encBlock, if_pos ((isShort_iff buf).2 h), if_pos h, BitVec.toNat_setWidth, takeOut_toNat]
    omega
  · rw [encBlock, if_neg (by simp [isShort_iff, h]), if_neg h, takeOut_toNat]
    norm_num

theorem receive_ok {a : Arrival} {i : Instr} (hp : unitField a.word = a.port) (hd : decode a.word = .ok i) (s : State) :
    receive a s = exec i s := by
  simp [receive, hp, hd]

theorem receive_error {a : Arrival} {why : Illegal} (hp : unitField a.word = a.port) (hd : decode a.word = .error why)
    (s : State) : receive a s = .refused (.illegalCommand why) := by
  simp [receive, hp, hd]

theorem receive_wrongPort {a : Arrival} (hp : unitField a.word ≠ a.port) (s : State) :
    receive a s = .refused (.illegalCommand .wrongPort) := if_neg hp

theorem offer_next {s t : State} {a : Arrival} (h : receive a s = .next t) : offer s a = (t, .accepted) := by
  rw [offer, h]

theorem offer_refused {s : State} {a : Arrival} {r : Refusal} (h : receive a s = .refused r) :
    offer s a = (s, .illegalCommand) := by
  rw [offer, h]

theorem step_nil {s : State} (h : s.arrivals = []) : step s = .next s := by
  simp [step, advance, h]

theorem step_cons {s : State} {a : Arrival} {rest : List Arrival} (h : s.arrivals = a :: rest) :
    step s = receive a { s with arrivals := rest } := by
  simp [step, advance, h]

/-- The order `offer` fixes (log entry 20): it runs the step of the machine in which the word stands before all others. -/
theorem step_delivered_first (s : State) (a : Arrival) : step { s with arrivals := a :: s.arrivals } = receive a s :=
  step_cons rfl

theorem offerAll_append (s : State) (as bs : List Arrival) :
    offerAll s (as ++ bs) =
      ((offerAll (offerAll s as).1 bs).1, (offerAll s as).2 ++ (offerAll (offerAll s as).1 bs).2) := by
  induction as generalizing s with
  | nil => rfl
  | cons a as ih => simp [offerAll, ih]

end Sys2Proof.Machine
end

