-- ==== Sys2Proof/Laws/PerInstr.lean ====
section
/-! SUPPORT. Statements made per instruction: every command's word selects its own row of the opcode map
(spec/30_encoding.md R64). -/

namespace Sys2Proof.Laws.InRow

/-- The word of `i` selects the row of `i`: `W & mask = match` (R64). -/
def Statement (i : Instr) : Prop := encode i &&& i.maskBits = i.matchBits

theorem einit : Statement .einit := by rfl

theorem eput (b : Byte) : Statement (.eput b) := by
  revert b
  unfold Statement
  decide

theorem eend : Statement .eend := by rfl

theorem dinit : Statement .dinit := by rfl

theorem dsym (v : Symbol) : Statement (.dsym v) := by
  revert v
  unfold Statement
  decide

theorem dbad (ch : CharCode) : Statement (.dbad ch) := by
  have hlow : ∀ k < 21, (0xE00000#24).getLsbD k = false := by decide
  have hlow' : ∀ k < 21, (0xC00000#24).getLsbD k = false := by decide
  have hand : ∀ k < 24, ((0xC00000#24).getLsbD k && (0xE00000#24).getLsbD k) = (0xC00000#24).getLsbD k := by decide
  apply BitVec.eq_of_getLsbD_eq
  intro k hk
  simp only [encode, Instr.matchBits, Instr.maskBits, Instr.operandBits, BitVec.getLsbD_and, BitVec.getLsbD_or,
    BitVec.getLsbD_setWidth]
  by_cases h : k < 21
  · rw [hlow k h, hlow' k h, Bool.and_false]
  · rw [BitVec.getLsbD_of_ge ch k (by omega), Bool.and_false, Bool.or_false, hand k hk]

theorem dend : Statement .dend := by rfl

end Sys2Proof.Laws.InRow
end

