-- ==== Sys2Proof/Tests/Slice0.lean ====
section
/-! SUPPORT. Tests of the model, one step each, with results taken from spec/95_test_vectors.md and the worked examples of the
rules; and for every statement with hypotheses a witness that meets them, at the boundaries of its clauses. -/

namespace Sys2Proof.Tests

open Sys2Proof Sys2Proof.Machine

/-- A state after reset but for ENC's buffer and output. -/
def encState (buf : Acc) (cnt : Count) (out : List Symbol) : State :=
  { State.reset with enc := { ebuf := buf, ecnt := cnt, eout := out, eres := [] } }

/-- A state after reset but for DEC's call registers. -/
def decState (buf : Acc) (cnt : Count) (pend : Option Symbol) (pos : Nat) (out : List Byte) : State :=
  { State.reset with dec := { DecUnit.reset with dbuf := buf, dcnt := cnt, dpend := pend, dpos := pos, dout := out } }

/-- A state in FAULT, as fault entry leaves it (R178). -/
def faultState (f : DecFault) : State := { State.reset with dec := DecUnit.reset.raise f }

/-- The next state, if there is one. -/
def after (o : Host.Outcome State Fault Refusal) : Option State :=
  match o with
  | .next s => some s
  | .fault _ | .refused _ => none

/-! ## Well-formedness -/

theorem test_wf_symbol_93 : Instr.wf (.dsym 93) = true := by decide
theorem test_wf_refuses_symbol_94 : Instr.wf (.dsym 94) = false := by decide

/-! ## Decoding: words written out from R60, R61, R64 (V70 to V83) -/

theorem test_decode_einit : decode 0b000000000000000000000000#24 = .ok .einit := by decide
theorem test_decode_eput : decode 0b001000000000000011111111#24 = .ok (.eput 0xFF#8) := by decide
theorem test_decode_eend : decode 0b010000000000000000000000#24 = .ok .eend := by decide
theorem test_decode_dinit : decode 0b100000000000000000000000#24 = .ok .dinit := by decide
theorem test_decode_dsym : decode 0b101000000000000001011101#24 = .ok (.dsym 93#7) := by decide
theorem test_decode_dbad : decode 0b110000000000000000100000#24 = .ok (.dbad 0x20#21) := by decide
theorem test_decode_dbad_widest : decode 0xDFFFFF#24 = .ok (.dbad 0x1FFFFF#21) := by decide
theorem test_decode_dend : decode 0b111000000000000000000000#24 = .ok .dend := by decide
theorem test_decode_symbol_94 : decode 0xA0005E#24 = .error .symbolOutOfRange := by decide
theorem test_decode_operand_not_zero : decode 0xE00001#24 = .error .operandNotZero := by decide
theorem test_decode_reserved : decode 0x7FFFFF#24 = .error .reservedOp := by decide
theorem test_decode_byte_too_wide : decode 0x200100#24 = .error .byteTooWide := by decide
theorem test_decode_symbol_too_wide : decode 0xA00080#24 = .error .symbolTooWide := by decide
theorem test_encode_eput : encode (.eput 0x48) = 0x200048#24 := by decide
theorem test_encode_dsym : encode (.dsym 87) = 0xA00057#24 := by decide
theorem test_encode_dbad : encode (.dbad 0x20) = 0xC00020#24 := by decide
theorem test_table_word_dsym : decodeTableWord 24 0xA00000 = some (.dsym 0) := by decide
theorem test_table_word_reserved : decodeTableWord 24 0x600000 = none := by decide

/-! ## The datapath (2.1, 2.2, 2.3 of the vectors) -/

/-- V1b, V1c. -/
theorem test_width_threshold : widthOf 643 = 14 ∧ widthOf 644 = 13 := by decide
/-- V1d, V1e, V1f. -/
theorem test_width_above_13_bits : widthOf 8191 = 13 ∧ widthOf 8192 = 14 ∧ widthOf 8835 = 14 := by decide
/-- V2j, V2k. -/
theorem test_digits : digitLow 8191#14 = 13 ∧ digitHigh 8191#14 = 87 ∧ digitHigh 8835#14 = 93 := by decide
/-- R96. -/
theorem test_combine : combine 13 87 = 8191 := by decide
/-- V3d, V3h. -/
theorem test_merge : merge 0x1FFF 13 0xFF = 0x1FFFFF ∧ merge 0x1F 5 8749 = 0x445BF := by decide
/-- V3e. -/
theorem test_take : takeOut 13 0xFFFF = 0x1FFF ∧ takeBuf 13 0xFFFF = 0x7 ∧ takeCnt 13 16 = 3 := by decide

/-! ## One command each -/

/-- R110, worked example. -/
theorem test_einit : (after (exec .einit (encState 7 3 [13, 87]))).map State.enc = some ⟨0, 0, [], []⟩ := by decide
/-- R111, worked example: a short group. -/
theorem test_eput_short : (after (exec (.eput 0xFF) (encState 0xFF 8 []))).map State.enc =
    some ⟨0x7, 3, [13, 87], []⟩ := by decide
/-- R113, worked example (V17): a long group with bit 13 set. -/
theorem test_eput_long : (after (exec (.eput 0x22) (encState 0x83 8 []))).map State.enc =
    some ⟨0, 2, [93, 93], []⟩ := by decide
/-- R116, worked example: n = 8 and x >= 94. -/
theorem test_eend_two : (after (exec .eend (encState 0xFF 8 [5]))).map State.enc = some ⟨0, 0, [], [[5, 67, 2]]⟩ := by decide
/-- R116: n = 8 with x = 0 emits one symbol, n = 9 with x = 0 emits two. -/
theorem test_eend_boundary : (after (exec .eend (encState 0 8 []))).map (fun s => s.enc.eres) = some [[0]] ∧
    (after (exec .eend (encState 0 9 []))).map (fun s => s.enc.eres) = some [[0, 0]] := by decide
/-- R130, worked example: from FAULT with cause 1. -/
theorem test_dinit : (after (exec .dinit (faultState (.invalidCharacter 5 6)))).map (fun s => (s.dec.dstat, s.dec.dinfo)) =
    some (⟨.run, .none⟩, ⟨0, 0⟩) := by decide
/-- R131, worked example: one byte. -/
theorem test_dsym_one_byte : (after (exec (.dsym 87) (decState 0 0 (some 13) 1 []))).map State.dec =
    some (decState 0x1F 5 none 2 [0xFF]).dec := by decide
/-- P3: two bytes, 0 as the high digit. -/
theorem test_dsym_two_bytes : (after (exec (.dsym 0) (decState 2 6 (some 12) 3 [1]))).map State.dec =
    some (decState 0 4 none 4 [1, 2, 3]).dec := by decide
/-- P4: DBAD reports its own 0-based index. -/
theorem test_dbad : (after (exec (.dbad 0x20) (decState 0x1F 5 none 2 [0xFF]))).map
    (fun s => (s.dec.dres, s.dec.dout, s.dec.dinfo)) =
    some ([.fault (.invalidCharacter 0x20 2)], [], ⟨0x20, 2⟩) := by decide
/-- P4: dropped in FAULT. -/
theorem test_dbad_dropped : after (exec (.dbad 0x20) (faultState .invalidPadding)) = some (faultState .invalidPadding) := by
  decide
/-- R137, worked example: the tail step completes the last byte. -/
theorem test_dend_tail : (after (exec .dend (decState 0x1F 5 (some 7) 3 [0xFF]))).map State.dec =
    some { DecUnit.reset with dres := [.ok [0xFF, 0xFF]] } := by decide
/-- V51: leftover one bits. -/
theorem test_dend_padding : (after (exec .dend (decState 0x1F 5 none 2 [0xFF]))).map (fun s => (s.dec.dres, s.dec.dstat)) =
    some ([.fault .invalidPadding], ⟨.fault, .invalidPadding⟩) := by decide

/-! ## Ports and step -/

/-- V83: an ENC word on the DEC port. -/
theorem test_wrong_port : offer State.reset ⟨.dec, 0x200048⟩ = (State.reset, .illegalCommand) := by decide
/-- 2.8: the illegal word between EPUT and EEND leaves the result as it is. -/
theorem test_illegal_word_is_skipped :
    (offerAll State.reset [⟨.enc, 0x2000FF⟩, ⟨.enc, 0x600000⟩, ⟨.enc, 0x400000⟩]).1.enc.eres = [[67, 2]] ∧
    (offerAll State.reset [⟨.enc, 0x2000FF⟩, ⟨.enc, 0x600000⟩, ⟨.enc, 0x400000⟩]).2 =
      [.accepted, .illegalCommand, .accepted] := by decide
/-- The word placed by the host is the next one executed. -/
theorem test_first_step : (after (step (State.reset.withFetchWord 24 0xA0002B))).map (fun s => (s.dec.dpend, s.dec.dpos)) =
    some (some 43, 1) := by decide
/-- R23: FAULT with cause 1 reads 0b011, with cause 2 it reads 0b101. -/
theorem test_dstat_word : (faultState (.invalidCharacter 0x20 7)).observe.dstat = 0b011#3 ∧
    (faultState .invalidPadding).observe.dstat = 0b101#3 := by decide
/-- V14 and V49 through the ports. -/
theorem test_calls : encodeValues [0xFF, 0xFF] = some [13, 87, 7] ∧
    decodeValues [.sym 13, .sym 87, .sym 7] = some (.ok [0xFF, 0xFF]) := by decide

/-! ## Witnesses: the hypotheses of each statement are met, at the boundaries of its clauses -/

theorem witness_ResetInitialisesAndOnlyResetShortensALog :
    step (encState 0 0 []) = .next (encState 0 0 []) := rfl

theorem witness_DecodeOfEncodeIsTheCommand :
    Instr.wf (.dsym 0) = true ∧ Instr.wf (.dsym 93) = true ∧ Instr.wf (.dbad 0x1FFFFF) = true := by decide

theorem witness_DecodedWordIsTheEncodingOfItsCommand : decode 0xA00000#24 = .ok (.dsym 0) := by decide

theorem witness_WordDecodesExactlyWhenItSelectsItsRow :
    (0x200005#24 &&& Instr.maskBits (.eput 0) = Instr.matchBits (.eput 0)) ∧
    (0x200005#24 &&& Instr.maskBits (.eput 1) = Instr.matchBits (.eput 1)) := by decide

/-- One word for each of the six cases, and a legal one at the edge of two of them. -/
theorem witness_PortRefusesExactlyTheIllegalWords :
    [(⟨.enc, 0x600000⟩ : Arrival), ⟨.enc, 0x000001⟩, ⟨.enc, 0x200100⟩, ⟨.dec, 0xA00080⟩, ⟨.dec, 0xA0005E⟩, ⟨.enc, 0xA0005D⟩].map
      (fun a => offer State.reset a) = List.replicate 6 (State.reset, .illegalCommand) ∧
    (offer State.reset ⟨.enc, 0x2000FF⟩).2 = .accepted ∧ (offer State.reset ⟨.dec, 0xA0005D⟩).2 = .accepted := by decide

theorem witness_IllegalWordChangesNothingAndIsNotSticky :
    IllegalOnPort ⟨.enc, 0x600000⟩ ∧ IllegalOnPort ⟨.dec, 0x200048⟩ :=
  ⟨.inr ⟨.reservedOp, by decide⟩, .inl (by decide)⟩

theorem witness_StepExecutesTheDecodedCommand :
    (State.reset.withFetchWord 24 0xC00020).arrivals = [⟨.dec, 0xC00020⟩] ∧ unitField 0xC00020#24 = .dec ∧
    decode 0xC00020#24 = .ok (.dbad 0x20) := by decide

theorem witness_UnitWithNoCommandHoldsItsState :
    State.reset.arrivals = [] ∧ streamOf .enc (State.reset.withFetchWord 24 0xE00000).arrivals = [] ∧
    streamOf .dec (State.reset.withFetchWord 24 0x000000).arrivals = [] ∧
    (after (step (State.reset.withFetchWord 24 0xE00000))).isSome = true ∧
    (after (step (State.reset.withFetchWord 24 0x000000))).isSome = true := by decide

theorem witness_RunOfStepsIsTheOfferedStream : ∀ a ∈ [arrivalOf .einit, arrivalOf (.dsym 93)], ¬IllegalOnPort a := by
  have h0 : decode 0x000000#24 = .ok .einit := by decide
  have h1 : decode 0xA0005D#24 = .ok (.dsym 93) := by decide
  intro a ha
  simp only [List.mem_cons, List.not_mem_nil, or_false] at ha
  rcases ha with rfl | rfl
  · rintro (h | ⟨why, h⟩)
    · exact h (by decide)
    · rw [show (arrivalOf .einit).word = 0x000000#24 by decide, h0] at h; cases h
  · rintro (h | ⟨why, h⟩)
    · exact h (by decide)
    · rw [show (arrivalOf (.dsym 93)).word = 0xA0005D#24 by decide, h1] at h; cases h

theorem witness_EinitRestartsTheEncoder : EncInitial State.reset.enc := by decide

/-- ECNT 5 and 6: the last count without a group and the first with one; the largest buffer at ECNT 13; the two widths at the
threshold (the byte 0x02 above 0x83 and above 0x84). -/
theorem witness_EputAbsorbsOneByte :
    EncInv (encState 31 5 []).enc ∧ EncInv (encState 63 6 []).enc ∧ EncInv (encState 0x1FFF 13 []).enc ∧
    EncInv (encState 0x83 8 []).enc ∧ EncInv (encState 0x84 8 []).enc := by decide

theorem witness_EputDrainLoopRunsAtMostOnce : EncInv (encState 31 5 []).enc ∧ EncInv (encState 0 6 []).enc := by decide

/-- The rows of R116's table: nothing, one, two by value, two by count, the widest. -/
theorem witness_EendFlushesAndPublishes :
    EncInv (encState 0 0 []).enc ∧ EncInv (encState 93 8 []).enc ∧ EncInv (encState 94 7 []).enc ∧
    EncInv (encState 0 9 []).enc ∧ EncInv (encState 8191 13 []).enc ∧
    [tailValues 0 0, tailValues 8 93, tailValues 7 94, tailValues 9 0, tailValues 13 8191] =
      [[], [93], [0, 1], [0, 0], [13, 87]] := by decide

theorem witness_EncoderRaisesNoFault : [Instr.einit, .eput 0, .eend].map Instr.unit = [.enc, .enc, .enc] := by decide

theorem witness_EncoderInvariantIsKept :
    EncInv (encState 0x1FFF 13 []).enc ∧ (after (exec (.eput 0xFF) (encState 0x1FFF 13 []))).isSome = true := by decide

theorem witness_WidthPartitionOfCombinedValues :
    [(643 : Value), 644, 8191, 8192, 8835].map (fun v => (decide (v.toNat ≤ 8835), isShort v)) =
      [(true, false), (true, true), (true, true), (true, false), (true, false)] := by decide

theorem witness_EncoderGroupsMatchTheWidthRule :
    (8835 : Value).toNat ≤ 8835 ∧ encWidth 0x1FFFFF = 13 ∧ encWidth 0x2283 = 14 ∧ encBlock 0x2283 = 8835 := by decide

theorem witness_DigitsAndCombineAreInverse : (8835 : Value).toNat ≤ 8835 ∧ (93 : Symbol).toNat ≤ 93 := by decide

theorem witness_DinitRestartsTheDecoder : DecInitial State.reset.dec := by decide

theorem witness_DsymStoresTheFirstOfAPair :
    State.reset.dec.dstat.state = .run ∧ State.reset.dec.dpend = none ∧ (93 : Symbol).toNat ≤ 93 := by decide

/-- DCNT 2 with a short pair gives 15 bits, one byte; DCNT 2 with a long pair gives 16, two; DCNT 7 gives the most, 21. -/
theorem witness_DsymCompletesAPair :
    (∀ s ∈ [decState 3 2 (some 13) 3 [0], decState 3 2 (some 12) 3 [0], decState 127 7 (some 93) 1 []],
      s.dec.dstat.state = .run ∧ DecInv s.dec ∧ s.dec.dpend.all (fun p => decide (p.toNat ≤ 93)) = true) ∧
    widthOf (combine 13 87) = 13 ∧ widthOf (combine 12 0) = 14 ∧ widthOf (combine 93 93) = 14 := by decide

theorem witness_DsymAboveNinetyThreeIsRefused : 93 < (94 : Symbol).toNat := by decide

/-- Residual zero without and with a pending value, nonzero without and with one; p = 7 and p = 8 = 2^(8-5) at DCNT 5. -/
theorem witness_DendPublishesOrFaults :
    (∀ s ∈ [decState 0 6 none 2 [0], decState 0x1F 5 (some 7) 3 [0], decState 0x1F 5 none 2 [0], decState 0x1F 5 (some 8) 3 [0]],
      s.dec.dstat.state = .run ∧ DecInv s.dec) ∧
    (0x1F + 7 * 2 ^ 5) / 2 ^ 8 = 0 ∧ (0x1F + 8 * 2 ^ 5) / 2 ^ 8 = 1 := by decide

theorem witness_DbadEntersInvalidCharacter : (decState 0x1F 5 (some 3) 3 [1]).dec.dstat.state = .run := by decide

theorem witness_FaultStateIsLeftByDinitAlone :
    (faultState .invalidPadding).dec.dstat.state = .fault ∧ Instr.dinit ∉ [Instr.dsym 0, .dend, .eput 3] := by decide

theorem witness_DecoderInvariantIsKept :
    Instr.unit (.dsym 93) = .dec ∧ DecInv (decState 127 7 (some 93) 1 []).dec ∧
    (decState 127 7 (some 93) 1 []).dec.dpend.all Symbol.legal = true ∧ (8835 : Value).toNat ≤ 8835 ∧
    (after (exec (.dsym 93) (decState 127 7 (some 93) 1 []))).isSome = true := by decide

theorem witness_StatusWordsReadAsLaidOut :
    DecStatusInv State.reset.dec ∧ DecStatusInv (faultState (.invalidCharacter 0x1FFFFF 7)).dec ∧
    DecStatusInv (faultState .invalidPadding).dec := by decide

theorem witness_UnitsShareNoRegister :
    (encState 7 3 []).dec = State.reset.dec ∧ (decState 1 3 none 2 []).enc = State.reset.enc ∧
    (after (exec .eend (encState 7 3 []))).isSome = true ∧ (after (exec .dend (decState 1 3 none 2 []))).isSome = true := by
  decide

theorem witness_LogsGrowByPublicationAlone :
    (after (exec .eend State.reset)).isSome = true ∧ (after (exec .dend State.reset)).isSome = true ∧
    (after (exec (.dbad 1) State.reset)).isSome = true ∧ State.reset.dec.dstat.state = .run ∧
    (after (exec .dend (faultState .invalidPadding))).isSome = true := by decide

/-- A state in the middle of an encoder and a decoder invocation, with words waiting. -/
theorem witness_EveryStepKeepsTheMachineInvariant :
    MachineInv ({ encState 0x7 3 [13, 87] with
      dec := (decState 0x1F 5 (some 7) 3 [0xFF]).dec, arrivals := [⟨.dec, 0xE00000⟩] } : State) ∧
    (after (step { encState 0x7 3 [13, 87] with
      dec := (decState 0x1F 5 (some 7) 3 [0xFF]).dec, arrivals := [⟨.dec, 0xE00000⟩] })).isSome = true := by decide

theorem witness_EveryInterleavingEndsInTheSameState :
    let as : List Arrival := [⟨.enc, 0x2000FF⟩, ⟨.dec, 0xA00043⟩, ⟨.enc, 0x400000⟩]
    let bs : List Arrival := [⟨.dec, 0xA00043⟩, ⟨.enc, 0x2000FF⟩, ⟨.enc, 0x400000⟩]
    streamOf .enc as = streamOf .enc bs ∧ streamOf .dec as = streamOf .dec bs ∧ as ≠ bs := by decide

theorem witness_DecodeCallPublishesAFunctionOfItsItems :
    (∀ x ∈ [Item.sym 93, .sym 0, .bad 0x20], ItemLegal x) ∧ decodeValues [.sym 93] = some (.ok [0x5D]) ∧
    decodeValues [.sym 13, .sym 87] = some (.fault .invalidPadding) := by decide

theorem witness_FirstBadCharacterIsTheOneReported :
    (∀ x ∈ [Item.sym 13, .sym 87, .bad 0x7F, .bad 1], ItemLegal x) ∧
    decodeValues [.sym 13, .sym 87, .bad 0x7F, .bad 1] = some (.fault (.invalidCharacter 0x7F 2)) := by decide

/-- The last clause at n = 8 (V19) and at n = 7 (V22h). -/
theorem witness_DecoderIsNotInjective :
    (93 : Symbol).toNat ≤ 93 ∧ (67 : Symbol).toNat + 94 * (2 : Symbol).toNat = 255 ∧
    (68 : Symbol).toNat + 94 * (2 : Symbol).toNat = 256 ∧
    encodeValues [0x5D] = some ([] ++ [93]) ∧ 8 * 1 = (pairBits []).2 + 8 ∧
    encodeValues [0, 0, 0, 0, 0, 0x5D] = some ([0, 0, 0, 0, 54, 43] ++ [46]) ∧
    8 * 6 = (pairBits [0, 0, 0, 0, 54, 43]).2 + 7 := by decide

theorem witness_WholeCallsMakeACompleteRun : ∀ x ∈ [Item.sym 93, .bad 0x20], ItemLegal x := by decide

/-- Some alphabet that meets the contract. The default alphabet's table is not known (N3); this is not it. -/
def shiftAlphabet : Alphabet where
  encodeMap k := BitVec.ofNat 21 (k.toNat + 33)
  decodeMap c := if 33 ≤ c.toNat ∧ c.toNat ≤ 126 then some (BitVec.ofNat 7 (c.toNat - 33)) else none

theorem witness_HostRoundTripForEveryAlphabet : shiftAlphabet.Valid := by
  refine ⟨by decide, fun c h => ?_, by decide⟩
  by_contra hc
  have hr : 33 ≤ c.toNat ∧ c.toNat ≤ 126 := by
    by_contra hn
    exact hc (if_neg hn)
  have hk : (BitVec.ofNat 7 (c.toNat - 33)).toNat = c.toNat - 33 := by
    rw [BitVec.toNat_ofNat]; omega
  refine h (BitVec.ofNat 7 (c.toNat - 33)) ?_ ?_
  · simp only [Symbol.legal, Config.symMax, hk, decide_eq_true_eq]; omega
  · apply BitVec.eq_of_toNat_eq
    show (BitVec.ofNat 21 _).toNat = _
    rw [hk, BitVec.toNat_ofNat]; omega

end Sys2Proof.Tests
end

/-! The machine as a whole (spec/10_state.md): what a command does to the state, what each unit's effect leaves unchanged, the
invariant of each unit, and the statements of the family proved from these. -/

namespace Sys2Proof.Proofs

open Sys2Proof.Machine

/-! ## A command and its effect on the state -/

/-- The state after a legal command: its effect on each unit, the waiting words as they were (R10, R48). -/
def applyCommand (i : Instr) (s : State) : State :=
  { s with enc := encEffect i s.enc, dec := decEffect i s.dec }

@[simp] theorem applyCommand_enc (i : Instr) (s : State) : (applyCommand i s).enc = encEffect i s.enc := rfl
@[simp] theorem applyCommand_dec (i : Instr) (s : State) : (applyCommand i s).dec = decEffect i s.dec := rfl
@[simp] theorem applyCommand_arrivals (i : Instr) (s : State) : (applyCommand i s).arrivals = s.arrivals := rfl

/-- Executing a command has a next state exactly when the command is legal, and that state is its effect. -/
theorem exec_eq_next_iff {i : Instr} {s t : State} : exec i s = .next t ↔ i.wf = true ∧ t = applyCommand i s := by
  constructor
  · intro h
    have hwf : i.wf = true := wf_of_exec_next h
    rw [exec_of_wf i s hwf] at h
    exact ⟨hwf, by cases h; rfl⟩
  · rintro ⟨hwf, rfl⟩
    exact exec_of_wf i s hwf

@[simp] theorem encEffect_eend (u : EncUnit) : encEffect .eend u = encEnd u := rfl
@[simp] theorem decEffect_dsym (v : Symbol) (u : DecUnit) : decEffect (.dsym v) u = u.whenRun (decSymbol v) := rfl
@[simp] theorem decEffect_dbad (ch : CharCode) (u : DecUnit) : decEffect (.dbad ch) u = u.whenRun (decBad ch) := rfl
@[simp] theorem decEffect_dend (u : DecUnit) : decEffect .dend u = u.whenRun decEnd := rfl

theorem encEffect_of_unit_dec {i : Instr} (h : i.unit = .dec) (u : EncUnit) : encEffect i u = u := by
  cases i with
  | einit | eput _ | eend => cases h
  | dinit | dsym _ | dbad _ | dend => rfl

theorem decEffect_of_unit_enc {i : Instr} (h : i.unit = .enc) (u : DecUnit) : decEffect i u = u := by
  cases i with
  | einit | eput _ | eend => rfl
  | dinit | dsym _ | dbad _ | dend => cases h

/-! ## The command a delivered word stands for -/

theorem decodeZ_eq_ok {i j : Instr} {arg : BitVec 21} (h : decodeZ i arg = .ok j) : j = i := by
  unfold decodeZ at h
  split at h <;> cases h
  rfl

theorem decodeB_eq_ok {j : Instr} {arg : BitVec 21} (h : decodeB arg = .ok j) : ∃ b, j = .eput b := by
  unfold decodeB at h
  split at h <;> cases h
  exact ⟨_, rfl⟩

theorem decodeS_eq_ok {j : Instr} {arg : BitVec 21} (h : decodeS arg = .ok j) :
    ∃ v, Symbol.legal v = true ∧ j = .dsym v := by
  unfold decodeS at h
  split at h
  · split at h <;> cases h
    exact ⟨_, ‹_›, rfl⟩
  · cases h

theorem decodeC_eq_ok {j : Instr} {arg : BitVec 21} (h : decodeC arg = .ok j) : j = .dbad arg := by
  cases h
  rfl

/-- The unit bit of a word is the top bit of its opcode field (R60). -/
theorem unitField_eq_opField (w : CmdWord) : unitField w = if 4 ≤ (opField w).toNat then .dec else .enc := by
  have htop : ∀ op : BitVec 3, op.getLsbD 2 = decide (4 ≤ op.toNat) := by decide
  have hbit : w.getLsbD 23 = decide (4 ≤ (opField w).toNat) := by rw [← htop]; simp [opField]
  simp only [unitField, hbit, decide_eq_true_eq]

/-- A word that decodes gives a legal command of the unit that its bit 23 names (R60, R64): the rows with an opcode of 4 and more
are DEC's. -/
theorem wf_and_unit_of_decode {w : CmdWord} {i : Instr} (h : decode w = .ok i) : i.wf = true ∧ i.unit = unitField w := by
  rw [unitField_eq_opField]
  unfold decode at h
  generalize (opField w).toNat = op at h ⊢
  match op, h with
  | 0, h | 2, h | 4, h => cases decodeZ_eq_ok h; exact ⟨rfl, rfl⟩
  | 1, h => obtain ⟨b, rfl⟩ := decodeB_eq_ok h; exact ⟨rfl, rfl⟩
  | 3, h => cases h
  | 5, h => obtain ⟨v, hv, rfl⟩ := decodeS_eq_ok h; exact ⟨hv, rfl⟩
  | 6, h => cases decodeC_eq_ok h; exact ⟨rfl, rfl⟩
  | n + 7, h => cases decodeZ_eq_ok h; exact ⟨rfl, (if_pos (by omega)).symm⟩

/-- The command a port executes for a word, if the word is legal there (R65, R176). -/
def commandAt (a : Arrival) : Option Instr :=
  if unitField a.word = a.port then (decode a.word).toOption else none

theorem commandAt_eq_some_iff {a : Arrival} {i : Instr} :
    commandAt a = some i ↔ unitField a.word = a.port ∧ decode a.word = .ok i := by
  by_cases hp : unitField a.word = a.port
  · cases hd : decode a.word <;> simp [commandAt, hp, hd, Except.toOption]
  · simp [commandAt, hp]

theorem wf_of_commandAt {a : Arrival} {i : Instr} (h : commandAt a = some i) : i.wf = true :=
  (wf_and_unit_of_decode (commandAt_eq_some_iff.1 h).2).1

theorem unit_of_commandAt {a : Arrival} {i : Instr} (h : commandAt a = some i) : i.unit = a.port := by
  obtain ⟨hp, hd⟩ := commandAt_eq_some_iff.1 h
  rw [(wf_and_unit_of_decode hd).2, hp]

theorem receive_of_commandAt_some {a : Arrival} {i : Instr} (h : commandAt a = some i) (s : State) :
    receive a s = .next (applyCommand i s) := by
  obtain ⟨hp, hd⟩ := commandAt_eq_some_iff.1 h
  rw [receive_ok hp hd]
  exact exec_of_wf i s (wf_of_commandAt h)

theorem receive_of_commandAt_none {a : Arrival} (h : commandAt a = none) (s : State) :
    ∃ r, receive a s = .refused r := by
  by_cases hp : unitField a.word = a.port
  · cases hd : decode a.word with
    | ok i => rw [commandAt_eq_some_iff.2 ⟨hp, hd⟩] at h; cases h
    | error why => exact ⟨_, receive_error hp hd s⟩
  · exact ⟨_, receive_wrongPort hp s⟩

theorem exists_commandAt_of_legal {a : Arrival} (h : ¬IllegalOnPort a) : ∃ i, commandAt a = some i := by
  obtain ⟨hp, hd⟩ := not_or.1 h
  cases hw : decode a.word with
  | ok i => exact ⟨i, commandAt_eq_some_iff.2 ⟨not_not.1 hp, hw⟩⟩
  | error why => exact absurd ⟨why, hw⟩ hd

/-- Everything a step can do: nothing when no word waits, and otherwise the command of the oldest word. -/
theorem step_cases {s t : State} (h : step s = .next t) :
    t = s ∨ ∃ a rest i, s.arrivals = a :: rest ∧ commandAt a = some i ∧
      t = applyCommand i { s with arrivals := rest } := by
  cases ha : s.arrivals with
  | nil =>
    rw [step_nil ha] at h
    cases h
    exact .inl rfl
  | cons a rest =>
    rw [step_cons ha] at h
    cases hc : commandAt a with
    | none =>
      obtain ⟨r, hr⟩ := receive_of_commandAt_none hc { s with arrivals := rest }
      rw [hr] at h
      cases h
    | some i =>
      rw [receive_of_commandAt_some hc] at h
      cases h
      exact .inr ⟨a, rest, i, rfl, hc, rfl⟩

/-! ## Steps, ports and streams -/

/-- Settles O8: the step is the port's, and the port's is the command's. -/
theorem stepExecutesTheDecodedCommand : Obligations.StepExecutesTheDecodedCommand := by
  intro s a rest i harr hport hdec
  rw [step_cons harr, receive_ok hport hdec]

theorem offer_fst_of_some {a : Arrival} {i : Instr} (h : commandAt a = some i) (s : State) :
    (offer s a).1 = applyCommand i s := by
  rw [offer_next (receive_of_commandAt_some h s)]

theorem offer_fst_of_none {a : Arrival} (h : commandAt a = none) (s : State) : (offer s a).1 = s := by
  obtain ⟨r, hr⟩ := receive_of_commandAt_none h s
  rw [offer_refused hr]

@[simp] theorem offerAll_cons_fst (s : State) (a : Arrival) (as : List Arrival) :
    (offerAll s (a :: as)).1 = (offerAll (offer s a).1 as).1 := rfl

/-- A run goes on from the next state of its first step. -/
theorem run_succ_of_step {s t : State} (k : Nat) (h : step s = .next t) :
    Host.Core.run Sys2Proof.core (k + 1) s = Host.Core.run Sys2Proof.core k t := by
  have h' : Sys2Proof.core.step s = .next t := h
  simp only [Host.Core.run, h']

/-- Settles O10, by induction on the words: a step consumes the first of them and does what offering it does. -/
theorem runOfStepsIsTheOfferedStream : Obligations.RunOfStepsIsTheOfferedStream := by
  intro s as
  induction as generalizing s with
  | nil => intro _; rfl
  | cons a as ih =>
    intro hlegal
    obtain ⟨i, hi⟩ := exists_commandAt_of_legal (hlegal a (List.mem_cons_self ..))
    have hstep : step { s with arrivals := a :: as } = .next { applyCommand i s with arrivals := as } :=
      (step_cons rfl).trans (receive_of_commandAt_some hi _)
    rw [List.length_cons, run_succ_of_step _ hstep, offerAll_cons_fst, offer_fst_of_some hi]
    exact ih (applyCommand i s) fun b hb => hlegal b (List.mem_cons_of_mem a hb)

/-- What a word on ENC's port does to ENC. -/
def encWord (u : EncUnit) (w : CmdWord) : EncUnit :=
  match commandAt { port := .enc, word := w } with
  | some i => encEffect i u
  | none => u

/-- What a word on DEC's port does to DEC. -/
def decWord (u : DecUnit) (w : CmdWord) : DecUnit :=
  match commandAt { port := .dec, word := w } with
  | some i => decEffect i u
  | none => u

theorem offer_enc_fst (s : State) (w : CmdWord) :
    (offer s { port := .enc, word := w }).1 = { s with enc := encWord s.enc w } := by
  cases hc : commandAt { port := .enc, word := w } with
  | none => simp only [offer_fst_of_none hc, encWord, hc]
  | some i => simp only [offer_fst_of_some hc, encWord, hc, applyCommand, decEffect_of_unit_enc (unit_of_commandAt hc)]

theorem offer_dec_fst (s : State) (w : CmdWord) :
    (offer s { port := .dec, word := w }).1 = { s with dec := decWord s.dec w } := by
  cases hc : commandAt { port := .dec, word := w } with
  | none => simp only [offer_fst_of_none hc, decWord, hc]
  | some i => simp only [offer_fst_of_some hc, decWord, hc, applyCommand, encEffect_of_unit_dec (unit_of_commandAt hc)]

@[simp] theorem streamOf_cons_same (p : UnitId) (w : CmdWord) (as : List Arrival) :
    streamOf p ({ port := p, word := w } :: as) = w :: streamOf p as := by
  simp [streamOf]

theorem streamOf_cons_other {p q : UnitId} (h : q ≠ p) (w : CmdWord) (as : List Arrival) :
    streamOf p ({ port := q, word := w } :: as) = streamOf p as := by
  simp [streamOf, h]

/-- Each unit runs through its own stream: how the two are interleaved does not enter (R10, R51). -/
theorem offerAll_fst_eq_foldl (s : State) (as : List Arrival) :
    (offerAll s as).1 =
      { s with enc := (streamOf .enc as).foldl encWord s.enc, dec := (streamOf .dec as).foldl decWord s.dec } := by
  induction as generalizing s with
  | nil => rfl
  | cons a as ih =>
    obtain ⟨port, w⟩ := a
    cases port with
    | enc =>
      rw [offerAll_cons_fst, offer_enc_fst, ih, streamOf_cons_same, streamOf_cons_other (by decide), List.foldl_cons]
    | dec =>
      rw [offerAll_cons_fst, offer_dec_fst, ih, streamOf_cons_same, streamOf_cons_other (by decide), List.foldl_cons]

/-- Settles O34: the state reached is a function of the two streams. -/
theorem everyInterleavingEndsInTheSameState : Obligations.EveryInterleavingEndsInTheSameState := by
  intro s as bs henc hdec
  rw [offerAll_fst_eq_foldl, offerAll_fst_eq_foldl, henc, hdec]

/-- Settles O30: a command's effect on each unit is a function of that unit, and is none on the other unit. -/
theorem unitsShareNoRegister : Obligations.UnitsShareNoRegister := by
  constructor
  · intro i s t h
    obtain ⟨-, rfl⟩ := exec_eq_next_iff.1 h
    exact ⟨rfl, fun hu => decEffect_of_unit_enc hu s.dec, fun hu => encEffect_of_unit_dec hu s.enc⟩
  · intro i s s' t h
    obtain ⟨hwf, rfl⟩ := exec_eq_next_iff.1 h
    have h' : exec i s' = .next (applyCommand i s') := exec_eq_next_iff.2 ⟨hwf, rfl⟩
    exact ⟨fun _ he => ⟨_, h', by simp [he]⟩, fun _ he => ⟨_, h', by simp [he]⟩⟩

/-! ## What the host reads of DSTAT and DINFO -/

/-- Bit 0 of DSTAT's word is the state (R23). -/
theorem dstatWord_getLsbD_zero_iff (d : DStat) : d.word.getLsbD 0 = true ↔ d.state = .fault := by
  obtain ⟨st, c⟩ := d
  cases st <;> cases c <;> decide

/-- Bits 2:1 of DSTAT's word are the cause's code (R23). -/
theorem dstatWord_extractLsb'_cause (d : DStat) : d.word.extractLsb' 1 2 = d.cause.code := by
  obtain ⟨st, c⟩ := d
  cases st <;> cases c <;> decide

theorem code_eq_one_iff (c : Cause) : c.code = 1 ↔ c = .invalidCharacter := by cases c <;> decide

theorem code_eq_two_iff (c : Cause) : c.code = 2 ↔ c = .invalidPadding := by cases c <;> decide

theorem code_eq_zero_iff (c : Cause) : c.code = 0 ↔ c = .none := by cases c <;> decide

theorem code_ne_three (c : Cause) : c.code ≠ 3 := by cases c <;> decide

theorem ne_run_iff (st : RunState) : st ≠ .run ↔ st = .fault := by cases st <;> decide

/-- DINFO's word holds the character below bit 21 (R23). -/
theorem dinfoWord_mod (d : DInfo) : d.word % 2 ^ 21 = d.ch.toNat := by
  rw [DInfo.word, Nat.add_mul_mod_self_right, Nat.mod_eq_of_lt d.ch.isLt]

/-- DINFO's word holds the index from bit 21 up (R23). -/
theorem dinfoWord_div (d : DInfo) : d.word / 2 ^ 21 = d.idx := by
  rw [DInfo.word, Nat.add_mul_div_right _ _ (by positivity), Nat.div_eq_of_lt d.ch.isLt, Nat.zero_add]

/-- Settles O29: the cause is nonzero exactly in FAULT by the invariant, the rest is the layout. -/
theorem statusWordsReadAsLaidOut : Obligations.StatusWordsReadAsLaidOut := by
  rintro s ⟨hcause, -, -⟩
  simp only [State.observe, dstatWord_extractLsb'_cause]
  refine ⟨dstatWord_getLsbD_zero_iff _, code_eq_one_iff _, code_eq_two_iff _, code_ne_three _, ?_, dinfoWord_mod _,
    dinfoWord_div _⟩
  rw [ne_eq, code_eq_zero_iff, dstatWord_getLsbD_zero_iff, hcause]
  exact ne_run_iff _

/-! ## The logs -/

theorem enc_setBits_append_nil (u : EncUnit) : (u.append []).setBits u.ebuf u.ecnt = u := by
  simp [EncUnit.append, EncUnit.setBits]

theorem dec_setBits_append_nil (u : DecUnit) : (u.append []).setBits u.dbuf u.dcnt = u := by
  simp [DecUnit.append, DecUnit.setBits]

/-- The drain of EPUT writes EBUF and ECNT and appends to EOUT, and does nothing else (R111). -/
theorem encDrain_eq_setBits_append (n : Nat) (u : EncUnit) :
    ∃ buf cnt xs, encDrain n u = (u.append xs).setBits buf cnt := by
  induction n generalizing u with
  | zero => exact ⟨_, _, [], (enc_setBits_append_nil u).symm⟩
  | succ n ih =>
    by_cases h : 14 ≤ u.ecnt.toNat
    · obtain ⟨buf, cnt, xs, hx⟩ := ih (encGroup u)
      refine ⟨buf, cnt, [digitLow (encBlock u.ebuf), digitHigh (encBlock u.ebuf)] ++ xs, ?_⟩
      rw [encDrain_go n u h, hx]
      simp [encGroup, EncUnit.append, EncUnit.setBits]
    · rw [encDrain_stop _ u (by omega)]
      exact ⟨_, _, [], (enc_setBits_append_nil u).symm⟩

@[simp] theorem encDrain_eres (n : Nat) (u : EncUnit) : (encDrain n u).eres = u.eres := by
  obtain ⟨buf, cnt, xs, h⟩ := encDrain_eq_setBits_append n u
  rw [h, EncUnit.setBits_eres, EncUnit.append_eres]

@[simp] theorem encPut_eres (b : Byte) (u : EncUnit) : (encPut b u).eres = u.eres := by
  simp [encPut, encMerge]

/-- The drain of DSYM writes DBUF and DCNT and appends to DOUT, and does nothing else (R136). -/
theorem decDrain_eq_setBits_append (n : Nat) (u : DecUnit) :
    ∃ buf cnt bs, decDrain n u = (u.append bs).setBits buf cnt := by
  induction n generalizing u with
  | zero => exact ⟨_, _, [], (dec_setBits_append_nil u).symm⟩
  | succ n ih =>
    by_cases h : 8 ≤ u.dcnt.toNat
    · obtain ⟨buf, cnt, bs, hb⟩ := ih (decByte u)
      refine ⟨buf, cnt, [takeOut 8 u.dbuf] ++ bs, ?_⟩
      rw [decDrain_go n u h, hb]
      simp [decByte, DecUnit.append, DecUnit.setBits]
    · rw [decDrain_stop _ u (by omega)]
      exact ⟨_, _, [], (dec_setBits_append_nil u).symm⟩

/-- The second symbol of a pair writes DBUF, DCNT and DPEND and appends to DOUT, and does nothing else (R133 to R136). -/
theorem decPair_eq_setBits_append (v : Value) (u : DecUnit) :
    ∃ buf cnt bs, decPair v u = ((u.setPend none).append bs).setBits buf cnt :=
  decDrain_eq_setBits_append _ _

theorem decPair_frame (v : Value) (u : DecUnit) :
    (decPair v u).dpend = none ∧ (decPair v u).dpos = u.dpos ∧ (decPair v u).dstat = u.dstat ∧
      (decPair v u).dinfo = u.dinfo ∧ (decPair v u).dres = u.dres := by
  obtain ⟨buf, cnt, bs, h⟩ := decPair_eq_setBits_append v u
  simp [h]

theorem decSymbol_first {u : DecUnit} (h : u.dpend = none) (v : Symbol) :
    decSymbol v u = (u.setPend (some v)).bumpPos := by
  simp [decSymbol, h]

theorem decSymbol_second {u : DecUnit} {p : Symbol} (h : u.dpend = some p) (v : Symbol) :
    decSymbol v u = (decPair (combine p v) u).bumpPos := by
  simp [decSymbol, h]

@[simp] theorem decSymbol_dres (v : Symbol) (u : DecUnit) : (decSymbol v u).dres = u.dres := by
  cases hp : u.dpend with
  | none => rw [decSymbol_first hp, DecUnit.bumpPos_dres, DecUnit.setPend_dres]
  | some p =>
    obtain ⟨-, -, -, -, hres⟩ := decPair_frame (combine p v) u
    rw [decSymbol_second hp, DecUnit.bumpPos_dres, hres]

/-- The tail step of DEND appends at most one byte, and writes no register outside the call's (R137). -/
theorem decTail_eq_setBits_append (u : DecUnit) :
    ∃ buf bs, bs.length ≤ 1 ∧ decTail u = ((u.append bs).setBits buf u.dcnt).setPend none := by
  cases hp : u.dpend with
  | none =>
    refine ⟨u.dbuf, [], by decide, ?_⟩
    have hself : u = u.setPend none := congrArg u.setPend hp
    simpa only [decTail, hp, dec_setBits_append_nil] using hself
  | some p =>
    refine ⟨takeBuf 8 (merge u.dbuf u.dcnt (zextSymbol p)), [takeOut 8 (merge u.dbuf u.dcnt (zextSymbol p))], by simp, ?_⟩
    simp only [decTail, hp]

/-- Everything DEND can do in RUN: publish DOUT with at most one byte more and discard the call, or fault (R137 to R139). -/
theorem decEnd_cases (u : DecUnit) :
    (∃ bs, bs.length ≤ 1 ∧ decEnd u = (u.publish (.ok (u.dout ++ bs))).clearCall) ∨
      decEnd u = u.raise .invalidPadding := by
  obtain ⟨buf, bs, hlen, ht⟩ := decTail_eq_setBits_append u
  simp only [decEnd, ht]
  split
  · exact .inl ⟨bs, hlen, rfl⟩
  · exact .inr rfl

theorem digitLow_legal {n : Nat} (x : BitVec n) : Symbol.legal (digitLow x) = true := by
  rw [legal_iff, digitLow_toNat]
  omega

theorem digitHigh_legal {n : Nat} {x : BitVec n} (h : x.toNat ≤ 8835) : Symbol.legal (digitHigh x) = true := by
  rw [legal_iff, digitHigh_toNat x (by omega)]
  omega

/-- The flush appends at most two symbols, and symbol values where the buffer splits into two digits (R116, R118). -/
theorem encFlush_eq_append (u : EncUnit) :
    ∃ tail, tail.length ≤ 2 ∧ (u.ebuf.toNat ≤ 8835 → tail.all Symbol.legal = true) ∧ encFlush u = u.append tail := by
  unfold encFlush
  split
  · exact ⟨[], by decide, fun _ => rfl, by simp [EncUnit.append]⟩
  split
  · exact ⟨[digitLow u.ebuf, digitHigh u.ebuf], by simp, fun h => by simp [digitLow_legal, digitHigh_legal h], rfl⟩
  · exact ⟨[digitLow u.ebuf], by simp, fun _ => by simp [digitLow_legal], rfl⟩

/-- EEND publishes EOUT and the flush, and returns ENC to its initial state (R116). -/
theorem encEnd_eq (u : EncUnit) :
    ∃ tail, tail.length ≤ 2 ∧ (u.ebuf.toNat ≤ 8835 → tail.all Symbol.legal = true) ∧
      encEnd u = { ebuf := 0, ecnt := 0, eout := [], eres := u.eres ++ [u.eout ++ tail] } := by
  obtain ⟨tail, hlen, hlegal, h⟩ := encFlush_eq_append u
  exact ⟨tail, hlen, hlegal, by rw [encEnd, h]; rfl⟩

/-- Only EEND changes ERES (R24). -/
theorem encEffect_eres_of_ne {i : Instr} (h : i ≠ .eend) (u : EncUnit) : (encEffect i u).eres = u.eres := by
  cases i with
  | einit => exact EncUnit.clear_eres u
  | eput b => exact encPut_eres b u
  | eend => exact absurd rfl h
  | dinit | dsym _ | dbad _ | dend => rfl

/-- In FAULT no command changes DRES, since DINIT publishes nothing and the others are dropped (R24, R141). -/
theorem decEffect_dres_of_fault {u : DecUnit} (h : u.dstat.state = .fault) (i : Instr) : (decEffect i u).dres = u.dres := by
  cases i with
  | dinit => exact DecUnit.init_dres u
  | dsym _ | dbad _ | dend => exact congrArg DecUnit.dres (DecUnit.whenRun_fault u _ h)
  | einit | eput _ | eend => rfl

/-- Only DBAD and DEND change DRES (R24). -/
theorem decEffect_dres_of_ne {i : Instr} (hend : i ≠ .dend) (hbad : ∀ ch, i ≠ .dbad ch) (u : DecUnit) :
    (decEffect i u).dres = u.dres := by
  cases i with
  | dinit => exact DecUnit.init_dres u
  | dsym v =>
    cases hs : u.dstat.state with
    | run => rw [decEffect_dsym, DecUnit.whenRun_run u _ hs, decSymbol_dres]
    | fault => exact decEffect_dres_of_fault hs _
  | dbad ch => exact absurd rfl (hbad ch)
  | dend => exact absurd rfl hend
  | einit | eput _ | eend => rfl

/-- Settles O31, from what EEND, DBAD and DEND publish and from what every other command leaves of the two logs. -/
theorem logsGrowByPublicationAlone : Obligations.LogsGrowByPublicationAlone := by
  refine ⟨rfl, rfl, fun i s t h => ?_⟩
  obtain ⟨-, rfl⟩ := exec_eq_next_iff.1 h
  refine ⟨?eend, fun hi => encEffect_eres_of_ne hi s.enc, ?dbad, ?dend, ?silent⟩
  case eend =>
    rintro rfl
    obtain ⟨tail, hlen, -, he⟩ := encEnd_eq s.enc
    exact ⟨tail, by rw [applyCommand_enc, encEffect_eend, he], hlen⟩
  case dbad =>
    rintro hrun ch rfl
    rw [applyCommand_dec, decEffect_dbad, DecUnit.whenRun_run _ _ hrun, decBad, DecUnit.raise_dres]
  case dend =>
    rintro hrun rfl
    rw [applyCommand_dec, decEffect_dend, DecUnit.whenRun_run _ _ hrun]
    obtain ⟨bs, hlen, hd⟩ | hd := decEnd_cases s.dec
    · exact .inl ⟨by rw [hd]; exact hrun, bs, hlen, by rw [hd]; rfl⟩
    · exact .inr (by rw [hd]; exact ⟨rfl, rfl⟩)
  case silent =>
    rintro (hfault | ⟨hend, hbad⟩)
    · exact decEffect_dres_of_fault hfault i
    · exact decEffect_dres_of_ne hend hbad s.dec

/-! ## The bit buffers -/

/-- A merge of `w` bits above the valid ones keeps the buffer below its count (R93). -/
theorem merge_lt (w : Nat) {buf : Acc} {cnt : Count} {x : Acc} (hb : buf.toNat < 2 ^ cnt.toNat) (hx : x.toNat < 2 ^ w)
    (hw : cnt.toNat + w ≤ 21) : (merge buf cnt x).toNat < 2 ^ (addCnt w cnt).toNat := by
  have hle : (x.toNat + 1) * 2 ^ cnt.toNat ≤ 2 ^ (cnt.toNat + w) := by
    rw [Nat.pow_add, Nat.mul_comm]
    exact Nat.mul_le_mul_left _ hx
  have hfit : 2 ^ (cnt.toNat + w) ≤ 2 ^ 21 := Nat.pow_le_pow_right (by decide) hw
  rw [Nat.succ_mul] at hle
  rw [addCnt_toNat w cnt (by omega), merge_toNat buf cnt x hb (by omega)]
  omega

/-- The group the encoder takes is at most PAIR_MAX, whatever the buffer holds (R91). -/
theorem encBlock_le (buf : Acc) : (encBlock buf).toNat ≤ 8835 := by
  rw [encBlock_toNat]
  split <;> omega

/-- A combined value fits the width that is recovered from it (R99). -/
theorem lt_two_pow_widthOf {v : Value} (h : v.toNat ≤ 8835) : v.toNat < 2 ^ widthOf v := by
  rw [widthOf_eq]
  split <;> norm_num <;> omega

theorem widthOf_eq_or (v : Value) : widthOf v = 13 ∨ widthOf v = 14 := by
  rw [widthOf_eq]
  split
  · exact .inl rfl
  · exact .inr rfl

theorem combine_le {p v : Symbol} (hp : Symbol.legal p = true) (hv : Symbol.legal v = true) :
    (combine p v).toNat ≤ 8835 := by
  rw [legal_iff] at hp hv
  rw [combine_toNat]
  omega

/-! ## ENC keeps its invariant -/

theorem encInv_of_empty {u : EncUnit} (hbuf : u.ebuf = 0) (hcnt : u.ecnt = 0) : EncInv u := by
  rw [EncInv, hbuf, hcnt]
  decide

theorem encMerge_ebuf_lt {u : EncUnit} (h : EncInv u) (b : Byte) :
    (encMerge b u).ebuf.toNat < 2 ^ (encMerge b u).ecnt.toNat := by
  obtain ⟨hcnt, hbuf⟩ := h
  exact merge_lt 8 hbuf (by rw [zextByte_toNat]; exact b.isLt) (by omega)

theorem encWidth_eq_or (buf : Acc) : encWidth buf = 13 ∨ encWidth buf = 14 := by
  rw [encWidth_eq]
  split
  · exact .inl rfl
  · exact .inr rfl

/-- Taking a group leaves the rest of the bits, at least 13 fewer (R113). -/
theorem encGroup_bits {u : EncUnit} (hcnt : 14 ≤ u.ecnt.toNat) (hbuf : u.ebuf.toNat < 2 ^ u.ecnt.toNat) :
    (encGroup u).ecnt.toNat + 13 ≤ u.ecnt.toNat ∧ (encGroup u).ebuf.toNat < 2 ^ (encGroup u).ecnt.toNat := by
  have hw : 13 ≤ encWidth u.ebuf ∧ encWidth u.ebuf ≤ u.ecnt.toNat := by
    have := encWidth_eq_or u.ebuf
    omega
  refine ⟨?_, takeBuf_lt _ u.ebuf u.ecnt hw.2 hbuf⟩
  have hc : (encGroup u).ecnt.toNat = u.ecnt.toNat - encWidth u.ebuf := takeCnt_toNat _ u.ecnt hw.2
  omega

/-- Taking a group appends one whole pair of symbol values (R114). -/
theorem encGroup_outInv {u : EncUnit} (h : EncOutInv u) : EncOutInv (encGroup u) := by
  obtain ⟨hout, hlen, hres⟩ := h
  refine ⟨?_, ?_, hres⟩
  · simp [encGroup, hout, digitLow_legal, digitHigh_legal (encBlock_le _)]
  · have hpair : (encGroup u).eout.length = u.eout.length + 2 := by simp [encGroup]
    omega

/-- The drain of EPUT ends in R14 from any count that its bound covers. -/
theorem encDrain_inv (n : Nat) (u : EncUnit) (hcnt : u.ecnt.toNat ≤ n + 13) (hbuf : u.ebuf.toNat < 2 ^ u.ecnt.toNat)
    (hout : EncOutInv u) : EncInv (encDrain n u) ∧ EncOutInv (encDrain n u) := by
  induction n generalizing u with
  | zero => exact ⟨⟨by simpa [encDrain] using hcnt, hbuf⟩, hout⟩
  | succ n ih =>
    by_cases h : 14 ≤ u.ecnt.toNat
    · obtain ⟨hcnt', hbuf'⟩ := encGroup_bits h hbuf
      rw [encDrain_go n u h]
      exact ih (encGroup u) (by omega) hbuf' (encGroup_outInv hout)
    · rw [encDrain_stop _ u (by omega)]
      exact ⟨⟨by omega, hbuf⟩, hout⟩

theorem encPut_inv {u : EncUnit} (hbits : EncInv u) (hout : EncOutInv u) (b : Byte) :
    EncInv (encPut b u) ∧ EncOutInv (encPut b u) :=
  encDrain_inv _ (encMerge b u) (Nat.le_add_right _ _) (encMerge_ebuf_lt hbits b) hout

theorem encEnd_outInv {u : EncUnit} (hbits : EncInv u) (hout : EncOutInv u) : EncOutInv (encEnd u) := by
  obtain ⟨hcnt, hbuf⟩ := hbits
  obtain ⟨hlegal, -, hres⟩ := hout
  obtain ⟨tail, -, htail, he⟩ := encEnd_eq u
  have hsmall : u.ebuf.toNat < 2 ^ 13 := hbuf.trans_le (Nat.pow_le_pow_right (by decide) hcnt)
  rw [he]
  refine ⟨rfl, rfl, ?_⟩
  rw [List.all_append, hres, List.all_cons, List.all_append, hlegal, htail (by omega)]
  rfl

/-- Every command keeps the invariants of ENC (R14, R15, R118). -/
theorem encEffect_inv (i : Instr) {u : EncUnit} (hbits : EncInv u) (hout : EncOutInv u) :
    EncInv (encEffect i u) ∧ EncOutInv (encEffect i u) := by
  cases i with
  | einit =>
    obtain ⟨-, -, hres⟩ := hout
    exact ⟨encInv_of_empty rfl rfl, rfl, rfl, hres⟩
  | eput b => exact encPut_inv hbits hout b
  | eend =>
    obtain ⟨tail, -, -, he⟩ := encEnd_eq u
    exact ⟨encInv_of_empty (by rw [encEffect_eend, he]) (by rw [encEffect_eend, he]), encEnd_outInv hbits hout⟩
  | dinit | dsym _ | dbad _ | dend => exact ⟨hbits, hout⟩

/-! ## DEC keeps its invariant -/

/-- The invariant of DEC's registers: the four clauses of the machine's that speak of DEC. -/
structure DecUnitInv (u : DecUnit) : Prop where
  bits : DecInv u
  pend : DecPendInv u
  out : DecOutInv u
  status : DecStatusInv u

/-- With the call's registers initial, only the status is left to say (R137, R178). -/
theorem decUnitInv_of_cleared {u : DecUnit} (hbuf : u.dbuf = 0) (hcnt : u.dcnt = 0) (hpend : u.dpend = none)
    (hpos : u.dpos = 0) (hout : u.dout = []) (hstatus : DecStatusInv u) : DecUnitInv u where
  bits := by rw [DecInv, hbuf, hcnt]; decide
  pend := by rw [DecPendInv, hpend, hpos]; decide
  out := by rw [DecOutInv, hcnt, hpos, hout]; decide
  status := hstatus

theorem raise_inv (u : DecUnit) (f : DecFault) : DecUnitInv (u.raise f) := by
  refine decUnitInv_of_cleared rfl rfl rfl rfl rfl ⟨?_, ?_, fun _ => ⟨rfl, rfl, rfl, rfl, rfl⟩⟩
  · cases f <;> simp [DecFault.cause]
  · cases f <;> simp [DecFault.cause, DecFault.info]

theorem init_inv (u : DecUnit) : DecUnitInv u.init :=
  decUnitInv_of_cleared rfl rfl rfl rfl rfl ⟨by simp, fun _ => rfl, fun _ => ⟨rfl, rfl, rfl, rfl, rfl⟩⟩

/-- The status clause speaks of the call's registers in FAULT alone, so in RUN it is kept while DSTAT and DINFO stand. -/
theorem decStatusInv_of_run {u u' : DecUnit} (h : DecStatusInv u) (hrun : u.dstat.state = .run)
    (hstat : u'.dstat = u.dstat) (hinfo : u'.dinfo = u.dinfo) : DecStatusInv u' := by
  obtain ⟨hcause, hzero, -⟩ := h
  rw [DecStatusInv, hstat, hinfo]
  exact ⟨hcause, hzero, fun hf => by rw [hrun] at hf; cases hf⟩

/-- A byte of the drain moves 8 bits from DBUF to DOUT (R136). -/
theorem decByte_bits {u : DecUnit} (hcnt : 8 ≤ u.dcnt.toNat) (hbuf : u.dbuf.toNat < 2 ^ u.dcnt.toNat) :
    (decByte u).dcnt.toNat = u.dcnt.toNat - 8 ∧ (decByte u).dbuf.toNat < 2 ^ (decByte u).dcnt.toNat ∧
      (decByte u).dout.length = u.dout.length + 1 :=
  ⟨takeCnt_toNat 8 u.dcnt hcnt, takeBuf_lt 8 u.dbuf u.dcnt hcnt hbuf, by simp [decByte]⟩

/-- The drain of DSYM ends in R19 from any count that its bound covers, and loses no bit. -/
theorem decDrain_bits (n : Nat) (u : DecUnit) (hcnt : u.dcnt.toNat ≤ n + 7) (hbuf : u.dbuf.toNat < 2 ^ u.dcnt.toNat) :
    DecInv (decDrain n u) ∧
      8 * (decDrain n u).dout.length + (decDrain n u).dcnt.toNat = 8 * u.dout.length + u.dcnt.toNat := by
  induction n generalizing u with
  | zero => exact ⟨⟨by simpa [decDrain] using hcnt, hbuf⟩, rfl⟩
  | succ n ih =>
    by_cases h : 8 ≤ u.dcnt.toNat
    · obtain ⟨hcnt', hbuf', hlen⟩ := decByte_bits h hbuf
      obtain ⟨hinv, hsum⟩ := ih (decByte u) (by omega) hbuf'
      rw [decDrain_go n u h]
      exact ⟨hinv, by omega⟩
    · rw [decDrain_stop _ u (by omega)]
      exact ⟨⟨by omega, hbuf⟩, rfl⟩

/-- A pair keeps R19 and adds the bits of its width to DOUT and DBUF (R134 to R136). -/
theorem decPair_bits {u : DecUnit} (h : DecInv u) {v : Value} (hv : v.toNat ≤ 8835) :
    DecInv (decPair v u) ∧
      8 * (decPair v u).dout.length + (decPair v u).dcnt.toNat = 8 * u.dout.length + u.dcnt.toNat + widthOf v := by
  obtain ⟨hcnt, hbuf⟩ := h
  have hw := widthOf_eq_or v
  have hmcnt : (decMerge v (u.setPend none)).dcnt.toNat = u.dcnt.toNat + widthOf v := addCnt_toNat _ u.dcnt (by omega)
  have hmbuf : (decMerge v (u.setPend none)).dbuf.toNat < 2 ^ (decMerge v (u.setPend none)).dcnt.toNat :=
    merge_lt (cnt := u.dcnt) (widthOf v) hbuf (by rw [zextValue_toNat]; exact lt_two_pow_widthOf hv) (by omega)
  obtain ⟨hinv, hsum⟩ := decDrain_bits _ _ (Nat.le_add_right _ 7) hmbuf
  exact ⟨hinv, hsum.trans (by rw [hmcnt]; exact (Nat.add_assoc ..).symm)⟩

/-- A symbol keeps DEC's invariant: the first of a pair only turns the parity, the second adds the bits of the pair (R131). -/
theorem decSymbol_inv {u : DecUnit} (h : DecUnitInv u) (hrun : u.dstat.state = .run) {v : Symbol}
    (hv : Symbol.legal v = true) : DecUnitInv (decSymbol v u) := by
  obtain ⟨hbits, ⟨hlegal, hparity⟩, ⟨hlow, hhigh⟩, hstatus⟩ := h
  cases hp : u.dpend with
  | none =>
    have heven : u.dpos % 2 = 0 := by simpa [hp] using hparity
    have hhalf : (u.dpos + 1) / 2 = u.dpos / 2 := by omega
    rw [decSymbol_first hp]
    refine ⟨hbits, ⟨hv, ?_⟩, ?_, decStatusInv_of_run hstatus hrun rfl rfl⟩
    · show (u.dpos + 1) % 2 = 1
      omega
    · simpa [DecOutInv, hhalf] using And.intro hlow hhigh
  | some p =>
    have hodd : u.dpos % 2 = 1 := by simpa [hp] using hparity
    have hhalf : (u.dpos + 1) / 2 = u.dpos / 2 + 1 := by omega
    have hlegal' : Symbol.legal p = true := by simpa [hp] using hlegal
    obtain ⟨hpend, hpos, hstat, hinfo, -⟩ := decPair_frame (combine p v) u
    obtain ⟨hbits', hsum⟩ := decPair_bits hbits (combine_le hlegal' hv)
    have hw := widthOf_eq_or (combine p v)
    rw [decSymbol_second hp]
    refine ⟨hbits', ?_, ?_, decStatusInv_of_run hstatus hrun hstat hinfo⟩
    · rw [DecPendInv, DecUnit.bumpPos_dpend, DecUnit.bumpPos_dpos, hpend, hpos]
      exact ⟨rfl, show (u.dpos + 1) % 2 = 0 by omega⟩
    · rw [DecOutInv, DecUnit.bumpPos_dpos, DecUnit.bumpPos_dout, DecUnit.bumpPos_dcnt, hpos, hhalf]
      omega

theorem decEnd_inv {u : DecUnit} (h : DecUnitInv u) (hrun : u.dstat.state = .run) : DecUnitInv (decEnd u) := by
  obtain ⟨bs, -, hd⟩ | hd := decEnd_cases u
  · rw [hd]
    exact decUnitInv_of_cleared rfl rfl rfl rfl rfl (decStatusInv_of_run h.status hrun rfl rfl)
  · rw [hd]
    exact raise_inv u _

/-- A command that is dropped in FAULT keeps what its effect keeps in RUN (R141). -/
theorem whenRun_inv {u : DecUnit} {f : DecUnit → DecUnit} (h : DecUnitInv u)
    (hf : u.dstat.state = .run → DecUnitInv (f u)) : DecUnitInv (u.whenRun f) := by
  cases hs : u.dstat.state with
  | run => rw [DecUnit.whenRun_run u f hs]; exact hf hs
  | fault => rw [DecUnit.whenRun_fault u f hs]; exact h

/-- Every legal command keeps the invariant of DEC (R18, R19, R21, R23). -/
theorem decEffect_inv {i : Instr} (hwf : i.wf = true) {u : DecUnit} (h : DecUnitInv u) : DecUnitInv (decEffect i u) := by
  cases i with
  | dinit => exact init_inv u
  | dsym v => exact whenRun_inv h fun hrun => decSymbol_inv h hrun hwf
  | dbad ch => exact whenRun_inv h fun _ => raise_inv u _
  | dend => exact whenRun_inv h fun hrun => decEnd_inv h hrun
  | einit | eput _ | eend => exact h

/-! ## The machine keeps its invariant -/

theorem machineInv_iff (s : State) : MachineInv s ↔ EncInv s.enc ∧ EncOutInv s.enc ∧ DecUnitInv s.dec :=
  ⟨fun ⟨hbits, hout, hdec, hpend, hdout, hstatus⟩ => ⟨hbits, hout, hdec, hpend, hdout, hstatus⟩,
    fun ⟨hbits, hout, hdec, hpend, hdout, hstatus⟩ => ⟨hbits, hout, hdec, hpend, hdout, hstatus⟩⟩

/-- Settles O32: each unit's effect keeps the unit's own invariant, and no other register takes part. -/
theorem everyStepKeepsTheMachineInvariant : Obligations.EveryStepKeepsTheMachineInvariant := by
  intro s t hs hstep
  obtain rfl | ⟨a, rest, i, -, hcmd, rfl⟩ := step_cases hstep
  · exact hs
  · obtain ⟨hbits, hout, hdec⟩ := (machineInv_iff s).1 hs
    obtain ⟨hbits', hout'⟩ := encEffect_inv i hbits hout
    exact (machineInv_iff _).2 ⟨hbits', hout', decEffect_inv (wf_of_commandAt hcmd) hdec⟩

/-- Settles O33: reset leaves DEC as DINIT would. -/
theorem resetMeetsTheMachineInvariant : Obligations.ResetMeetsTheMachineInvariant := by
  have hdec : DecUnitInv State.reset.dec := init_inv DecUnit.reset
  exact (machineInv_iff _).2 ⟨by decide, by decide, hdec⟩

end Sys2Proof.Proofs

/-! The byte stream and the entry ENCODE publishes (spec/20_memory.md, spec/30_encoding.md): the commands of the call as effects on
ENC, the bits that digit pairs carry, and the invariant that the pairs written and EBUF together hold the bytes absorbed. -/

namespace Sys2Proof.Proofs

open Sys2Proof.Machine

/-! ## The ENCODE call as effects on ENC -/

/-- The word of a command of ENC, on ENC's port, is read back as that command (R60, R64). -/
theorem commandAt_arrivalOf_of_unit_enc {i : Instr} (h : i.unit = .enc) : commandAt (arrivalOf i) = some i := by
  cases i with
  | einit | eend => decide
  | eput b => revert b; decide
  | dinit | dsym _ | dbad _ | dend => cases h

theorem issue_cons_of_unit_enc {i : Instr} (h : i.unit = .enc) (s : State) (is : List Instr) :
    issue s (i :: is) = issue { s with enc := encEffect i s.enc } is := by
  rw [issue, List.map_cons, offerAll_cons_fst, offer_fst_of_some (commandAt_arrivalOf_of_unit_enc h), applyCommand,
    decEffect_of_unit_enc h, issue]

/-- A list of ENC's commands runs as the effects on ENC one after another, and changes nothing else (R10). -/
theorem issue_eq_foldl_encEffect (s : State) (is : List Instr) (h : ∀ i ∈ is, i.unit = .enc) :
    issue s is = { s with enc := is.foldl (fun u i => encEffect i u) s.enc } := by
  induction is generalizing s with
  | nil => rfl
  | cons i is ih =>
    rw [issue_cons_of_unit_enc (h i (List.mem_cons_self ..)), ih _ fun j hj => h j (List.mem_cons_of_mem i hj),
      List.foldl_cons]

/-- The EPUTs of a call, one for each byte in order (R76). -/
def encPuts (bs : List Byte) (u : EncUnit) : EncUnit := bs.foldl (fun u b => encPut b u) u

@[simp] theorem encPuts_nil (u : EncUnit) : encPuts [] u = u := rfl
@[simp] theorem encPuts_cons (b : Byte) (bs : List Byte) (u : EncUnit) :
    encPuts (b :: bs) u = encPuts bs (encPut b u) := rfl

/-- ENCODE clears ENC, absorbs the bytes and flushes (R76). -/
theorem issue_encodeCommands (s : State) (bs : List Byte) :
    issue s (encodeCommands bs) = { s with enc := encEnd (encPuts bs s.enc.clear) } := by
  rw [encodeCommands, issue_eq_foldl_encEffect]
  · rw [List.foldl_cons, List.foldl_append, List.foldl_map]
    rfl
  · simp only [List.mem_cons, List.mem_append, List.mem_map, List.not_mem_nil, or_false]
    rintro i (rfl | ⟨b, -, rfl⟩ | rfl) <;> rfl

/-! ## The bits of the stream and of the pairs -/

theorem streamNat_append (as bs : List Byte) :
    streamNat (as ++ bs) = streamNat as + streamNat bs * 2 ^ (8 * as.length) := by
  induction as with
  | nil => simp [streamNat]
  | cons a as ih =>
    rw [List.cons_append, streamNat, streamNat, ih, List.length_cons, Nat.mul_succ, Nat.pow_add]
    ring

/-- The pairs of a sequence of whole pairs come before those of what follows it (R43). -/
theorem pairBits_append (xs ys : List Symbol) (h : xs.length % 2 = 0) :
    pairBits (xs ++ ys) =
      ((pairBits xs).1 + (pairBits ys).1 * 2 ^ (pairBits xs).2, (pairBits xs).2 + (pairBits ys).2) := by
  match xs, h with
  | [], _ => simp [pairBits]
  | [_], h => cases h
  | d0 :: d1 :: rest, h =>
    have hrest : rest.length % 2 = 0 := by
      simp only [List.length_cons] at h
      omega
    simp only [List.cons_append, pairBits, pairBits_append rest ys hrest, Nat.pow_add, Prod.mk.injEq]
    exact ⟨by ring, by ring⟩

/-- The digit pair of a group value carries that value in its recovered width (R68, R97). -/
theorem pairBits_digits {v : Value} (h : v.toNat ≤ 8835) :
    pairBits [digitLow v, digitHigh v] = (v.toNat, widthOf v) := by
  have hv : (digitLow v).toNat + 94 * (digitHigh v).toNat = v.toNat := by
    rw [digitLow_toNat, digitHigh_toNat v (by omega)]
    exact Nat.mod_add_div _ _
  simp [pairBits, hv, widthOf_eq]

/-- The group is the low bits of the buffer, as many as are taken away with it (R113). -/
theorem encBlock_toNat_eq_mod (buf : Acc) : (encBlock buf).toNat = buf.toNat % 2 ^ encWidth buf := by
  rw [encBlock_toNat, encWidth_eq]
  split <;> rfl

/-- The width of a group is recovered from its value (R91). -/
theorem widthOf_encBlock (buf : Acc) : widthOf (encBlock buf) = encWidth buf := by
  have hlow : (encBlock buf).toNat % 8192 = buf.toNat % 8192 := by
    rw [encBlock_toNat]
    split <;> omega
  rw [widthOf_eq, hlow, encWidth_eq]

/-! ## The pairs in EOUT and the bits in EBUF hold the bytes absorbed -/

/-- The bits of EOUT's pairs, and above them the ECNT bits of EBUF, are the bit string of `bs` (R42, R43). -/
structure EncHolds (bs : List Byte) (u : EncUnit) : Prop where
  value : streamNat bs = (pairBits u.eout).1 + u.ebuf.toNat * 2 ^ (pairBits u.eout).2
  count : 8 * bs.length = (pairBits u.eout).2 + u.ecnt.toNat

theorem encHolds_clear (u : EncUnit) : EncHolds [] u.clear := ⟨rfl, rfl⟩

/-- The merge of EPUT puts the byte above all bits before it (R112). -/
theorem encMerge_holds {bs : List Byte} {u : EncUnit} (h : EncHolds bs u) (hbits : EncInv u) (b : Byte) :
    EncHolds (bs ++ [b]) (encMerge b u) := by
  obtain ⟨hvalue, hcount⟩ := h
  obtain ⟨hcnt, hbuf⟩ := hbits
  have hfit : b.toNat * 2 ^ u.ecnt.toNat < 2 ^ 21 := by
    calc b.toNat * 2 ^ u.ecnt.toNat < 2 ^ 8 * 2 ^ u.ecnt.toNat := Nat.mul_lt_mul_of_pos_right b.isLt (by positivity)
      _ ≤ 2 ^ 8 * 2 ^ 13 := Nat.mul_le_mul_left _ (Nat.pow_le_pow_right (by decide) hcnt)
  have hebuf : (encMerge b u).ebuf.toNat = u.ebuf.toNat + b.toNat * 2 ^ u.ecnt.toNat := by
    rw [← zextByte_toNat b] at hfit ⊢
    exact merge_toNat u.ebuf u.ecnt _ hbuf hfit
  have hecnt : (encMerge b u).ecnt.toNat = u.ecnt.toNat + 8 := addCnt_toNat 8 u.ecnt (by omega)
  have hone : streamNat [b] = b.toNat := rfl
  constructor
  · rw [streamNat_append, hone, hvalue, hcount, hebuf, Nat.pow_add]
    show _ = (pairBits u.eout).1 + _ * 2 ^ (pairBits u.eout).2
    ring
  · rw [hecnt, List.length_append, Nat.mul_add, hcount]
    exact Nat.add_assoc ..

/-- Taking a group moves its bits from EBUF to the pairs (R113, R114). -/
theorem encGroup_holds {bs : List Byte} {u : EncUnit} (h : EncHolds bs u) (hout : EncOutInv u)
    (hcnt : 14 ≤ u.ecnt.toNat) : EncHolds bs (encGroup u) := by
  obtain ⟨-, heven, -⟩ := hout
  obtain ⟨hvalue, hcount⟩ := h
  have hw : encWidth u.ebuf ≤ u.ecnt.toNat := by
    have := encWidth_eq_or u.ebuf
    omega
  have hpairs : pairBits (encGroup u).eout = ((pairBits u.eout).1 +
      u.ebuf.toNat % 2 ^ encWidth u.ebuf * 2 ^ (pairBits u.eout).2, (pairBits u.eout).2 + encWidth u.ebuf) := by
    rw [← encBlock_toNat_eq_mod, ← widthOf_encBlock]
    exact (pairBits_append _ _ heven).trans (by rw [pairBits_digits (encBlock_le _)])
  have hebuf : (encGroup u).ebuf.toNat = u.ebuf.toNat / 2 ^ encWidth u.ebuf := takeBuf_toNat _ _
  have hecnt : (encGroup u).ecnt.toNat = u.ecnt.toNat - encWidth u.ebuf := takeCnt_toNat _ _ hw
  constructor
  · rw [hpairs, hebuf, hvalue, Nat.pow_add]
    conv_lhs => rw [← Nat.mod_add_div u.ebuf.toNat (2 ^ encWidth u.ebuf)]
    ring
  · rw [hpairs, hecnt]
    omega

theorem encDrain_holds (n : Nat) {bs : List Byte} {u : EncUnit} (h : EncHolds bs u) (hout : EncOutInv u) :
    EncHolds bs (encDrain n u) := by
  induction n generalizing u with
  | zero => exact h
  | succ n ih =>
    by_cases hcnt : 14 ≤ u.ecnt.toNat
    · rw [encDrain_go n u hcnt]
      exact ih (encGroup_holds h hout hcnt) (encGroup_outInv hout)
    · rw [encDrain_stop _ u (by omega)]
      exact h

/-- EPUT adds its byte at the end of the stream (R111). -/
theorem encPut_holds {bs : List Byte} {u : EncUnit} (h : EncHolds bs u) (hbits : EncInv u) (hout : EncOutInv u)
    (b : Byte) : EncHolds (bs ++ [b]) (encPut b u) :=
  encDrain_holds _ (encMerge_holds h hbits b) hout

theorem encPuts_inv (bs : List Byte) {u : EncUnit} (hbits : EncInv u) (hout : EncOutInv u) :
    EncInv (encPuts bs u) ∧ EncOutInv (encPuts bs u) := by
  induction bs generalizing u with
  | nil => exact ⟨hbits, hout⟩
  | cons b bs ih =>
    obtain ⟨hbits', hout'⟩ := encPut_inv hbits hout b
    exact ih hbits' hout'

theorem encPuts_holds (bs : List Byte) {cs : List Byte} {u : EncUnit} (h : EncHolds cs u) (hbits : EncInv u)
    (hout : EncOutInv u) : EncHolds (cs ++ bs) (encPuts bs u) := by
  induction bs generalizing cs u with
  | nil => simpa using h
  | cons b bs ih =>
    obtain ⟨hbits', hout'⟩ := encPut_inv hbits hout b
    rw [List.append_cons]
    exact ih (encPut_holds h hbits hout b) hbits' hout'

/-! ## The flush and the entry -/

/-- Under R14 the flush is the tail of the case table (R116). -/
theorem encFlush_eq_append_tailValues {u : EncUnit} (h : EncInv u) :
    ∃ tail, tail.map BitVec.toNat = tailValues u.ecnt.toNat u.ebuf.toNat ∧ encFlush u = u.append tail := by
  obtain ⟨hcnt, hbuf⟩ := h
  have hsmall : u.ebuf.toNat < 2 ^ 13 := hbuf.trans_le (Nat.pow_le_pow_right (by decide) hcnt)
  by_cases hzero : u.ecnt = 0
  · exact ⟨[], by simp [tailValues, hzero], by rw [encFlush, if_pos hzero]; simp [EncUnit.append]⟩
  have hpos : u.ecnt.toNat ≠ 0 := fun h0 => hzero (BitVec.eq_of_toNat_eq h0)
  by_cases hsecond : needSecond u.ebuf u.ecnt = true
  · refine ⟨[digitLow u.ebuf, digitHigh u.ebuf], ?_, by rw [encFlush, if_neg hzero, if_pos hsecond]⟩
    have htwo : ¬(u.ecnt.toNat ≤ 8 ∧ u.ebuf.toNat < 94) := by
      rw [needSecond_iff] at hsecond
      omega
    simp only [List.map_cons, List.map_nil, digitLow_toNat, digitHigh_toNat u.ebuf (by omega), tailValues, if_neg hpos,
      if_neg htwo]
  · refine ⟨[digitLow u.ebuf], ?_, by rw [encFlush, if_neg hzero, if_neg hsecond]⟩
    have hone : u.ecnt.toNat ≤ 8 ∧ u.ebuf.toNat < 94 := by
      rw [needSecond_iff] at hsecond
      omega
    simp only [List.map_cons, List.map_nil, digitLow_toNat, tailValues, if_neg hpos, if_pos hone,
      Nat.mod_eq_of_lt hone.2]

/-- The entry EEND publishes is EOUT and the tail of the case table, symbol values all (R116, R118). -/
theorem encEnd_entry {u : EncUnit} (hbits : EncInv u) (hout : EncOutInv u) :
    ∃ tail, tail.map BitVec.toNat = tailValues u.ecnt.toNat u.ebuf.toNat ∧
      (u.eout ++ tail).all Symbol.legal = true ∧ (encEnd u).eres = u.eres ++ [u.eout ++ tail] := by
  obtain ⟨tail, htail, hflush⟩ := encFlush_eq_append_tailValues hbits
  have heres : (encEnd u).eres = u.eres ++ [u.eout ++ tail] := by rw [encEnd, hflush]; rfl
  obtain ⟨-, -, hlegal⟩ := encEnd_outInv hbits hout
  rw [heres, List.all_append, Bool.and_eq_true] at hlegal
  obtain ⟨-, hentry⟩ := hlegal
  exact ⟨tail, htail, by simpa using hentry, heres⟩

theorem encodeValues_eq (bs : List Byte) :
    encodeValues bs = (encEnd (encPuts bs EncUnit.reset)).eres.getLast? := by
  rw [encodeValues, issue_encodeCommands]
  rfl

/-- Settles O36: the pairs are EOUT before EEND, which hold with EBUF the bytes absorbed, and the tail is the flush of EBUF. -/
theorem encodedEntryIsPairsAndTail : Obligations.EncodedEntryIsPairsAndTail := by
  refine ⟨by rw [encodeValues_eq]; rfl, fun bs => ?_⟩
  have hreset : EncInv EncUnit.reset ∧ EncOutInv EncUnit.reset := by decide
  obtain ⟨hbits0, hout0⟩ := hreset
  obtain ⟨hbits, hout⟩ := encPuts_inv bs hbits0 hout0
  obtain ⟨hvalue, hcount⟩ := encPuts_holds bs (encHolds_clear EncUnit.reset) hbits0 hout0
  obtain ⟨tail, htail, hlegal, hentry⟩ := encEnd_entry hbits hout
  obtain ⟨hcnt, hbuf⟩ := hbits
  obtain ⟨-, heven, -⟩ := hout
  refine ⟨_, tail, _, _, ?_, hlegal, heven, hcnt, hbuf, htail, hvalue, hcount⟩
  rw [encodeValues_eq, hentry, List.getLast?_concat]

end Sys2Proof.Proofs

/-! The command words (spec/30_encoding.md): the two fields of a word, what each operand format reads, the decoder and the
encoder as inverses of each other, the rows of the opcode map, and what a port refuses. -/

namespace Sys2Proof.Proofs

open Sys2Proof.Machine

/-! ## The two fields of a word -/

theorem opField_toNat (w : CmdWord) : (opField w).toNat = w.toNat / 2 ^ 21 := by
  rw [opField, BitVec.extractLsb'_toNat, Nat.shiftRight_eq_div_pow]
  omega

theorem argField_toNat (w : CmdWord) : (argField w).toNat = w.toNat % 2 ^ 21 := by
  rw [argField, BitVec.extractLsb'_toNat, Nat.shiftRight_zero]

/-- A word is its opcode field and its operand field (R60). -/
theorem word_eq_of_fields {w w' : CmdWord} (hop : opField w = opField w') (harg : argField w = argField w') : w = w' := by
  have hopNat := congrArg BitVec.toNat hop
  have hargNat := congrArg BitVec.toNat harg
  rw [opField_toNat, opField_toNat] at hopNat
  rw [argField_toNat, argField_toNat] at hargNat
  apply BitVec.eq_of_toNat_eq
  omega

@[simp] theorem opField_and (w w' : CmdWord) : opField (w &&& w') = opField w &&& opField w' := BitVec.extractLsb'_and
@[simp] theorem opField_or (w w' : CmdWord) : opField (w ||| w') = opField w ||| opField w' := BitVec.extractLsb'_or
@[simp] theorem argField_or (w w' : CmdWord) : argField (w ||| w') = argField w ||| argField w' := BitVec.extractLsb'_or

/-- An operand of at most 21 bits does not reach into the opcode field (R60). -/
theorem opField_setWidth {n : Nat} (h : n ≤ 21) (x : BitVec n) : opField (x.setWidth 24) = 0 := by
  have hx : x.toNat < 2 ^ 21 := x.isLt.trans_le (Nat.pow_le_pow_right (by decide) h)
  apply BitVec.eq_of_toNat_eq
  rw [opField_toNat, BitVec.toNat_setWidth]
  show _ = 0
  omega

theorem argField_setWidth {n : Nat} (x : BitVec n) : argField (x.setWidth 24) = x.setWidth 21 := by
  apply BitVec.eq_of_toNat_eq
  rw [argField_toNat, BitVec.toNat_setWidth, BitVec.toNat_setWidth]
  omega

theorem argField_setWidth_toNat {n : Nat} (h : n ≤ 21) (x : BitVec n) : (argField (x.setWidth 24)).toNat = x.toNat := by
  rw [argField_setWidth, BitVec.toNat_setWidth_of_le h]

/-- An operand of at most 21 bits is read back from its own bits of the word (R63). -/
theorem setWidth_argField_setWidth {n : Nat} (h : n ≤ 21) (x : BitVec n) :
    (argField (x.setWidth 24)).setWidth n = x := by
  rw [argField_setWidth, BitVec.setWidth_setWidth_of_le x h, BitVec.setWidth_eq]

/-- The `op` column of the opcode map (R64). -/
def opcode : Instr → Nat
  | .einit => 0
  | .eput _ => 1
  | .eend => 2
  | .dinit => 4
  | .dsym _ => 5
  | .dbad _ => 6
  | .dend => 7

/-- The match bits of a row are its opcode, above an operand field of 0 (R64). -/
theorem fields_matchBits (i : Instr) : (opField i.matchBits).toNat = opcode i ∧ argField i.matchBits = 0 := by
  cases i <;> simp only [Instr.matchBits, opcode] <;> decide

theorem opField_operandBits (i : Instr) : opField i.operandBits = 0 := by
  cases i with
  | eput b => exact opField_setWidth (by decide) b
  | dsym v => exact opField_setWidth (by decide) v
  | dbad ch => exact opField_setWidth (by decide) ch
  | einit | eend | dinit | dend => rfl

/-- The opcode field of a command's word is its opcode (R60, R64). -/
theorem opField_encode_toNat (i : Instr) : (opField (encode i)).toNat = opcode i := by
  obtain ⟨hop, -⟩ := fields_matchBits i
  simpa [encode, opField_operandBits] using hop

/-- The operand field of a command's word is its operand (R60, R63). -/
theorem argField_encode (i : Instr) : argField (encode i) = argField i.operandBits := by
  obtain ⟨-, harg⟩ := fields_matchBits i
  simp [encode, harg]

/-! ## What each format reads -/

/-- The bits of `x` from bit `k` up are all zero exactly when `x` fits in `k` bits. -/
theorem extractLsb'_eq_zero_iff_lt {n : Nat} (k m : Nat) (h : n = k + m) (x : BitVec n) :
    x.extractLsb' k m = 0 ↔ x.toNat < 2 ^ k := by
  have hlt : x.toNat / 2 ^ k < 2 ^ m := by
    rw [Nat.div_lt_iff_lt_mul (Nat.two_pow_pos k), ← Nat.pow_add, Nat.add_comm m k, ← h]
    exact x.isLt
  rw [← BitVec.toNat_inj, BitVec.extractLsb'_toNat, Nat.shiftRight_eq_div_pow, Nat.mod_eq_of_lt hlt]
  exact Nat.div_eq_zero_iff_lt (Nat.two_pow_pos k)

/-- A value that fits in `k` bits is read back from its low `k` bits. -/
theorem setWidth_setWidth_of_lt {n k : Nat} {x : BitVec n} (h : x.toNat < 2 ^ k) : (x.setWidth k).setWidth n = x := by
  apply BitVec.eq_of_toNat_eq
  rw [BitVec.toNat_setWidth, BitVec.toNat_setWidth, Nat.mod_eq_of_lt h, Nat.mod_eq_of_lt x.isLt]

theorem decodeZ_eq_ok_iff {i j : Instr} {arg : BitVec 21} : decodeZ i arg = .ok j ↔ arg.toNat = 0 ∧ i = j := by
  have hzero : arg = 0 ↔ arg.toNat = 0 := BitVec.toNat_inj.symm
  simp only [decodeZ, hzero]
  by_cases h : arg.toNat = 0 <;> simp [h]

theorem decodeB_eq_ok_iff {j : Instr} {arg : BitVec 21} :
    decodeB arg = .ok j ↔ arg.toNat < 256 ∧ .eput (arg.setWidth 8) = j := by
  have hfit : arg.extractLsb' 8 13 = 0 ↔ arg.toNat < 256 := extractLsb'_eq_zero_iff_lt 8 13 rfl arg
  have hlow : arg.extractLsb' 0 8 = arg.setWidth 8 := (BitVec.setWidth_eq_extractLsb' (by decide)).symm
  simp only [decodeB, hfit, hlow]
  by_cases h : arg.toNat < 256 <;> simp [h]

theorem decodeS_eq_ok_iff {j : Instr} {arg : BitVec 21} :
    decodeS arg = .ok j ↔ arg.toNat < 128 ∧ arg.toNat % 128 ≤ 93 ∧ .dsym (arg.setWidth 7) = j := by
  have hfit : arg.extractLsb' 7 14 = 0 ↔ arg.toNat < 128 := extractLsb'_eq_zero_iff_lt 7 14 rfl arg
  have hlow : arg.extractLsb' 0 7 = arg.setWidth 7 := (BitVec.setWidth_eq_extractLsb' (by decide)).symm
  have hlegal : Symbol.legal (arg.setWidth 7) = true ↔ arg.toNat % 128 ≤ 93 := by
    rw [legal_iff, BitVec.toNat_setWidth]
  simp only [decodeS, hfit, hlow, hlegal]
  by_cases h : arg.toNat < 128
  · by_cases hv : arg.toNat % 128 ≤ 93 <;> simp [h, hv]
  · simp [h]

theorem decodeC_eq_ok_iff {j : Instr} {arg : BitVec 21} : decodeC arg = .ok j ↔ .dbad arg = j := by simp [decodeC]

/-! ## The decoder and the encoder -/

/-- Settles O3: the two fields of the command's word select its row, whose format reads the operand back. -/
theorem decodeOfEncodeIsTheCommand : Obligations.DecodeOfEncodeIsTheCommand := by
  intro i hwf
  rw [decode, opField_encode_toNat, argField_encode]
  cases i with
  | einit | eend | dinit | dend => rfl
  | eput b =>
    exact decodeB_eq_ok_iff.2
      ⟨(argField_setWidth_toNat (by decide) b).trans_lt b.isLt,
        congrArg Instr.eput (setWidth_argField_setWidth (by decide) b)⟩
  | dsym v =>
    have hv : v.toNat % 128 ≤ 93 := (Nat.mod_le ..).trans ((legal_iff v).1 hwf)
    have harg := argField_setWidth_toNat (by decide) v
    exact decodeS_eq_ok_iff.2
      ⟨harg.trans_lt v.isLt, harg.symm ▸ hv, congrArg Instr.dsym (setWidth_argField_setWidth (by decide) v)⟩
  | dbad ch => exact decodeC_eq_ok_iff.2 (congrArg Instr.dbad ((argField_setWidth ch).trans (BitVec.setWidth_eq ch)))

/-- A word that decodes has the opcode of the command's row and the command's operand (R60, R64). -/
theorem fields_of_decode {w : CmdWord} {i : Instr} (h : decode w = .ok i) :
    (opField w).toNat = opcode i ∧ argField w = argField i.operandBits := by
  rw [decode] at h
  generalize argField w = arg at h ⊢
  have hop := (opField w).isLt
  generalize (opField w).toNat = op at h hop ⊢
  match op, h, hop with
  | 0, h, _ | 2, h, _ | 4, h, _ | 7, h, _ =>
    obtain ⟨harg, rfl⟩ := decodeZ_eq_ok_iff.1 h
    exact ⟨rfl, BitVec.eq_of_toNat_eq harg⟩
  | 1, h, _ =>
    obtain ⟨harg, rfl⟩ := decodeB_eq_ok_iff.1 h
    exact ⟨rfl, ((argField_setWidth _).trans (setWidth_setWidth_of_lt harg)).symm⟩
  | 3, h, _ => cases h
  | 5, h, _ =>
    obtain ⟨harg, -, rfl⟩ := decodeS_eq_ok_iff.1 h
    exact ⟨rfl, ((argField_setWidth _).trans (setWidth_setWidth_of_lt harg)).symm⟩
  | 6, h, _ =>
    cases decodeC_eq_ok_iff.1 h
    exact ⟨rfl, ((argField_setWidth _).trans (BitVec.setWidth_eq _)).symm⟩
  | n + 8, _, hop => exact absurd hop (by omega)

/-- Settles O4: the word has the fields of the command's encoding. -/
theorem decodedWordIsTheEncodingOfItsCommand : Obligations.DecodedWordIsTheEncodingOfItsCommand := by
  intro w i h
  obtain ⟨hwf, -⟩ := wf_and_unit_of_decode h
  obtain ⟨hop, harg⟩ := fields_of_decode h
  have hop' : opField (encode i) = opField w := BitVec.eq_of_toNat_eq ((opField_encode_toNat i).trans hop.symm)
  exact ⟨hwf, word_eq_of_fields hop' ((argField_encode i).trans harg.symm)⟩

/-- Everything the decoder reads: the words of the legal commands (R60, R64). -/
theorem decode_eq_ok_iff {w : CmdWord} {i : Instr} : decode w = .ok i ↔ i.wf = true ∧ encode i = w :=
  ⟨decodedWordIsTheEncodingOfItsCommand w i, fun ⟨hwf, hw⟩ => hw ▸ decodeOfEncodeIsTheCommand i hwf⟩

/-- Settles O2: a finite table of words, each decoded by evaluation. -/
theorem specWordsDecodeToTheirCommands : Obligations.SpecWordsDecodeToTheirCommands := by
  unfold Obligations.SpecWordsDecodeToTheirCommands
  decide

/-! ## The rows of the opcode map -/

/-- A mask tells the bits that lie under it from the bits beside it. -/
theorem or_eq_iff_of_mask {n : Nat} {m x k w : BitVec n} (hm : m &&& k = m) (hx : x &&& k = 0#n) :
    m ||| x = w ↔ w &&& k = m ∧ w &&& ~~~k = x := by
  have hsplit : ∀ y : BitVec n, y &&& k ||| y &&& ~~~k = y := fun y => by simp [← BitVec.and_or_distrib_left]
  constructor
  · rintro rfl
    have hm' : m &&& ~~~k = 0#n := by
      rw [← hm, BitVec.and_assoc]
      simp
    have hx' : x &&& ~~~k = x := by simpa [hx] using hsplit x
    exact ⟨by simp [BitVec.and_or_distrib_right, hm, hx], by simp [BitVec.and_or_distrib_right, hm', hx']⟩
  · rintro ⟨rfl, rfl⟩
    exact hsplit w

/-- An operand has no bit under a mask that leaves the operand's bits free. -/
theorem setWidth_and_eq_zero {n : Nat} (x : BitVec n) {k : CmdWord} (h : k.setWidth n = 0) :
    x.setWidth 24 &&& k = 0 := by
  apply BitVec.eq_of_getLsbD_eq
  intro j hj
  by_cases hjn : j < n
  · have hk : k.getLsbD j = false := by simpa [hjn] using congrArg (BitVec.getLsbD · j) h
    simp [hk]
  · simp [BitVec.getLsbD_of_ge x j (Nat.le_of_not_lt hjn)]

theorem matchBits_and_maskBits (i : Instr) : i.matchBits &&& i.maskBits = i.matchBits := by
  cases i <;> simp only [Instr.matchBits, Instr.maskBits] <;> decide

/-- No operand bit is a bit of the row's mask (R64). -/
theorem operandBits_and_maskBits (i : Instr) : i.operandBits &&& i.maskBits = 0 := by
  cases i with
  | eput b => exact setWidth_and_eq_zero b (k := 0xFFFF00) (by decide)
  | dsym v => exact setWidth_and_eq_zero v (k := 0xFFFF80) (by decide)
  | dbad ch => exact setWidth_and_eq_zero ch (k := 0xE00000) (by decide)
  | einit | eend | dinit | dend => rfl

/-- A word is a command's encoding exactly when it selects the command's row and its other bits are the operand (R64). -/
theorem encode_eq_iff {i : Instr} {w : CmdWord} :
    encode i = w ↔ w &&& i.maskBits = i.matchBits ∧ w &&& ~~~i.maskBits = i.operandBits :=
  or_eq_iff_of_mask (matchBits_and_maskBits i) (operandBits_and_maskBits i)

theorem wf_iff (i : Instr) : i.wf = true ↔ ∀ v, i = .dsym v → v.toNat ≤ 93 := by
  cases i with
  | dsym v => simp [Instr.wf, legal_iff]
  | einit | eput _ | eend | dinit | dbad _ | dend => simp [Instr.wf]

/-- A word that selects a row has the row's opcode: every mask covers the opcode field (R64). -/
theorem opField_of_selects {w : CmdWord} {i : Instr} (h : w &&& i.maskBits = i.matchBits) :
    opField w = opField i.matchBits := by
  have hmask : opField i.maskBits = BitVec.allOnes 3 := by
    cases i <;> simp only [Instr.maskBits] <;> decide
  rw [← h, opField_and, hmask, BitVec.and_allOnes]

/-- Settles O5: a word decodes to the command whose encoding it is, and the rows differ in their opcodes. -/
theorem wordDecodesExactlyWhenItSelectsItsRow : Obligations.WordDecodesExactlyWhenItSelectsItsRow := by
  refine ⟨fun b v ch => rfl, fun w i => ?_, fun w i j hi hj => ?_⟩
  · rw [decode_eq_ok_iff, encode_eq_iff, wf_iff, and_comm, and_assoc]
  · obtain ⟨-, hargi⟩ := fields_matchBits i
    obtain ⟨-, hargj⟩ := fields_matchBits j
    exact word_eq_of_fields ((opField_of_selects hi).symm.trans (opField_of_selects hj)) (hargi.trans hargj.symm)

/-! ## What a port refuses -/

/-- The cases (a) to (e) of R65, by the numbers in the two fields of a word. -/
def IllegalFields (op arg : Nat) : Prop :=
  op = 3 ∨ ((op = 0 ∨ op = 2 ∨ op = 4 ∨ op = 7) ∧ arg ≠ 0) ∨ (op = 1 ∧ 256 ≤ arg) ∨ (op = 5 ∧ 128 ≤ arg) ∨
    (op = 5 ∧ 93 < arg % 128)

/-- The decoder reads every word but those of the cases (a) to (e) (R65). -/
theorem exists_decode_eq_ok_iff (w : CmdWord) :
    (∃ i, decode w = .ok i) ↔ ¬IllegalFields (opField w).toNat (argField w).toNat := by
  rw [decode]
  have hop := (opField w).isLt
  generalize (opField w).toNat = op at hop ⊢
  match op, hop with
  | 0, _ | 2, _ | 4, _ | 7, _ => simp [decodeZ_eq_ok_iff, IllegalFields]
  | 1, _ => simp [decodeB_eq_ok_iff, IllegalFields]
  | 3, _ => simp [IllegalFields]
  | 5, _ => simp [decodeS_eq_ok_iff, IllegalFields]
  | 6, _ => simp [decodeC_eq_ok_iff, IllegalFields]
  | n + 8, hop => exact absurd hop (by omega)

theorem unitField_eq_iff (a : Arrival) : unitField a.word = a.port ↔ (a.word.getLsbD 23 = true ↔ a.port = .dec) := by
  unfold unitField
  cases a.word.getLsbD 23 <;> cases a.port <;> decide

/-- A port has no command for a word exactly in the cases (a) to (f) of R65. -/
theorem commandAt_eq_none_iff (a : Arrival) :
    commandAt a = none ↔ IllegalFields (opField a.word).toNat (argField a.word).toNat ∨ ¬unitField a.word = a.port := by
  rw [← not_iff_not, not_or, not_not, ← exists_decode_eq_ok_iff, ← ne_eq, Option.ne_none_iff_exists']
  simp only [commandAt_eq_some_iff, exists_and_left]
  exact and_comm

/-- Settles O6: the six cases are those in which the port has no command for the word. -/
theorem portRefusesExactlyTheIllegalWords : Obligations.PortRefusesExactlyTheIllegalWords := by
  intro s a op arg illegal
  have hnone : illegal ↔ commandAt a = none := by
    rw [commandAt_eq_none_iff, unitField_eq_iff]
    simp only [IllegalFields, or_assoc]
    rfl
  constructor
  · intro h
    obtain ⟨r, hr⟩ := receive_of_commandAt_none (hnone.1 h) s
    exact offer_refused hr
  · intro h
    obtain ⟨i, hi⟩ := Option.ne_none_iff_exists'.1 (mt hnone.2 h)
    obtain ⟨-, hdec⟩ := commandAt_eq_some_iff.1 hi
    exact ⟨⟨i, hdec⟩, by rw [offer_next (receive_of_commandAt_some hi s)]⟩

end Sys2Proof.Proofs

/-! The width partition and the digits (spec/40_bitbuffer_and_partition.md): the short class of [0, 8835] as a range and by
count, the groups the encoder takes, and DIGITS and COMBINE as inverses of each other. -/

namespace Sys2Proof.Proofs

open Sys2Proof.Machine

/-! ## The two classes of the values up to PAIR_MAX -/

/-- A value up to PAIR_MAX that has bit 13 set is at most 643 in its low 13 bits, so the short class is one range (R90, R92). -/
theorem isShort_iff_range {n : Nat} {x : BitVec n} (h : x.toNat ≤ 8835) :
    isShort x = true ↔ 644 ≤ x.toNat ∧ x.toNat ≤ 8191 := by
  rw [isShort_iff]
  omega

theorem isShort_false_iff_range {n : Nat} {x : BitVec n} (h : x.toNat ≤ 8835) :
    isShort x = false ↔ x.toNat ≤ 643 ∨ 8192 ≤ x.toNat := by
  rw [isShort_false_iff]
  omega

/-- The short class of [0, 8835], listed in order, is [644, 8191]. -/
theorem filter_isShort_range :
    (List.range 8836).filter (fun n => isShort (BitVec.ofNat 14 n)) = List.Ico 644 8192 := by
  have hclass : ∀ n ∈ List.range 8836,
      isShort (BitVec.ofNat 14 n) = (decide (n < 8192) && decide (644 ≤ n)) := by
    intro n hn
    have hn' : n < 8836 := List.mem_range.1 hn
    have hval : (BitVec.ofNat 14 n).toNat = n := by rw [BitVec.toNat_ofNat]; omega
    rw [Bool.eq_iff_iff, isShort_iff_range (by omega), hval, Bool.and_eq_true, decide_eq_true_iff, decide_eq_true_iff]
    omega
  rw [List.filter_congr hclass, ← List.filter_filter, ← List.Ico.zero_bot, List.Ico.filter_le, List.Ico.filter_lt]
  rfl

theorem countP_isShort_range : (List.range 8836).countP (fun n => isShort (BitVec.ofNat 14 n)) = 7548 := by
  rw [List.countP_eq_length_filter, filter_isShort_range, List.Ico.length]

/-- Settles O17: the short class is one range, and the long class is the rest of the 8836 values. -/
theorem widthPartitionOfCombinedValues : Obligations.WidthPartitionOfCombinedValues := by
  refine ⟨fun v hv => ⟨isShort_iff_range hv, isShort_false_iff_range hv⟩, countP_isShort_range, ?_⟩
  have hsum := List.length_eq_countP_add_countP (fun n => isShort (BitVec.ofNat 14 n)) (l := List.range 8836)
  rw [List.length_range, countP_isShort_range] at hsum
  simp only [Bool.not_eq_true, Bool.decide_eq_false] at hsum
  omega

/-! ## The groups the encoder takes -/

theorem widthOf_eq_13_iff (v : Value) : widthOf v = 13 ↔ isShort v = true := by
  rw [widthOf_eq, isShort_iff]
  split <;> omega

theorem widthOf_eq_14_iff (v : Value) : widthOf v = 14 ↔ isShort v = false := by
  rw [widthOf_eq, isShort_false_iff]
  split <;> omega

/-- A value up to PAIR_MAX, alone in the accumulator, is the group taken from it. -/
theorem encBlock_zextValue {v : Value} (h : v.toNat ≤ 8835) : encBlock (zextValue v) = v := by
  apply BitVec.eq_of_toNat_eq
  rw [encBlock_toNat, zextValue_toNat]
  split <;> omega

/-- Settles O18: the width is recovered from the group, so the group's class is that of the width it was taken with. -/
theorem encoderGroupsMatchTheWidthRule : Obligations.EncoderGroupsMatchTheWidthRule := by
  constructor
  · intro buf
    have hle := encBlock_le buf
    have hwidth := widthOf_encBlock buf
    refine ⟨hle, hwidth, fun hshort => ?_, fun hlong => ?_⟩
    · exact (isShort_iff_range hle).1 ((widthOf_eq_13_iff _).1 (hwidth.trans hshort))
    · exact (isShort_false_iff_range hle).1 ((widthOf_eq_14_iff _).1 (hwidth.trans hlong))
  · intro v hv
    exact ⟨⟨zextValue v, encBlock_zextValue hv⟩, lt_two_pow_widthOf hv⟩

/-! ## DIGITS and COMBINE -/

/-- COMBINE gives back the value that DIGITS split (R97). -/
theorem combine_digits {x : Value} (h : x.toNat ≤ 8835) : combine (digitLow x) (digitHigh x) = x := by
  apply BitVec.eq_of_toNat_eq
  rw [combine_toNat, digitLow_toNat, digitHigh_toNat x (by omega)]
  exact Nat.mod_add_div _ _

theorem digitLow_combine {d0 : Symbol} (h0 : d0.toNat ≤ 93) (d1 : Symbol) : digitLow (combine d0 d1) = d0 := by
  apply BitVec.eq_of_toNat_eq
  rw [digitLow_toNat, combine_toNat]
  omega

theorem digitHigh_combine {d0 d1 : Symbol} (h0 : d0.toNat ≤ 93) (h1 : d1.toNat ≤ 93) :
    digitHigh (combine d0 d1) = d1 := by
  have hsum := combine_toNat d0 d1
  apply BitVec.eq_of_toNat_eq
  rw [digitHigh_toNat _ (by omega), hsum]
  omega

/-- Settles O19: both digits and the sum are in range, and each operation undoes the other. -/
theorem digitsAndCombineAreInverse : Obligations.DigitsAndCombineAreInverse := by
  constructor
  · intro x hx
    exact ⟨combine_digits hx, (legal_iff _).1 (digitLow_legal x), (legal_iff _).1 (digitHigh_legal hx)⟩
  · intro d0 d1 h0 h1
    exact ⟨digitLow_combine h0 d1, digitHigh_combine h0 h1, combine_le ((legal_iff d0).2 h0) ((legal_iff d1).2 h1)⟩

end Sys2Proof.Proofs

/-! The commands of the encoder (spec/41_encoder.md): the numbers EPUT leaves, its drain as at most one group, the registers
and the entry EEND writes, and the length of the entry ENCODE publishes. -/

namespace Sys2Proof.Proofs

open Sys2Proof.Machine

/-! ## EINIT -/

theorem clear_of_encInitial {u : EncUnit} (h : EncInitial u) : u.clear = u := by
  obtain ⟨hbuf, hcnt, hout⟩ := h
  rw [EncUnit.clear, ← hbuf, ← hcnt, ← hout]

/-- Settles O11: EINIT clears ENC, and clearing an initial unit changes nothing. -/
theorem einitRestartsTheEncoder : Obligations.EinitRestartsTheEncoder := by
  refine ⟨fun s => rfl, fun s h => ?_⟩
  rw [exec_einit, State.onEnc, clear_of_encInitial h]

/-! ## EPUT -/

theorem encMerge_ecnt_toNat {u : EncUnit} (h : EncInv u) (b : Byte) : (encMerge b u).ecnt.toNat = u.ecnt.toNat + 8 := by
  obtain ⟨hcnt, -⟩ := h
  exact addCnt_toNat 8 u.ecnt (by omega)

/-- Under R14 the byte stands above the valid bits, and none of its bits leaves the register (R112). -/
theorem encMerge_ebuf_toNat {u : EncUnit} (h : EncInv u) (b : Byte) :
    (encMerge b u).ebuf.toNat = u.ebuf.toNat + b.toNat * 2 ^ u.ecnt.toNat := by
  obtain ⟨hcnt, hbuf⟩ := h
  have hfit : b.toNat * 2 ^ u.ecnt.toNat < 2 ^ 8 * 2 ^ 13 :=
    Nat.mul_lt_mul_of_lt_of_le b.isLt (Nat.pow_le_pow_right (by decide) hcnt) (by decide)
  rw [← zextByte_toNat b] at hfit ⊢
  exact merge_toNat u.ebuf u.ecnt _ hbuf hfit

theorem encGroup_ebuf_toNat (u : EncUnit) : (encGroup u).ebuf.toNat = u.ebuf.toNat / 2 ^ encWidth u.ebuf :=
  takeBuf_toNat _ _

theorem encGroup_ecnt_toNat {u : EncUnit} (h : 14 ≤ u.ecnt.toNat) :
    (encGroup u).ecnt.toNat = u.ecnt.toNat - encWidth u.ebuf := by
  have := encWidth_eq_or u.ebuf
  exact takeCnt_toNat _ u.ecnt (by omega)

/-- A group appends the two digits of the low bits of EBUF, the low digit first (R113, R114). -/
theorem encGroup_eout (u : EncUnit) : ∃ d0 d1 : Symbol, (encGroup u).eout = u.eout ++ [d0, d1] ∧
    d0.toNat = u.ebuf.toNat % 2 ^ encWidth u.ebuf % 94 ∧ d1.toNat = u.ebuf.toNat % 2 ^ encWidth u.ebuf / 94 := by
  have hle := encBlock_le u.ebuf
  refine ⟨digitLow (encBlock u.ebuf), digitHigh (encBlock u.ebuf), rfl, ?_, ?_⟩
  · rw [digitLow_toNat, encBlock_toNat_eq_mod]
  · rw [digitHigh_toNat _ (by omega), encBlock_toNat_eq_mod]

theorem encPut_of_short {u : EncUnit} (h : EncInv u) (b : Byte) (hn : u.ecnt.toNat + 8 < 14) :
    encPut b u = encMerge b u :=
  encDrain_stop _ _ (by rwa [encMerge_ecnt_toNat h])

/-- After one group at most 8 of the at most 21 bits are left, so the drain stops (R115). -/
theorem encPut_of_long {u : EncUnit} (h : EncInv u) (b : Byte) (hn : 14 ≤ u.ecnt.toNat + 8) :
    encPut b u = encGroup (encMerge b u) := by
  have hecnt := encMerge_ecnt_toNat h b
  obtain ⟨hrest, -⟩ := encGroup_bits (by omega) (encMerge_ebuf_lt h b)
  obtain ⟨hcnt, -⟩ := h
  rw [encPut, hecnt, encDrain_go _ _ (by omega), encDrain_stop _ _ (by omega)]

/-- Settles O13: below 14 bits the loop is not entered, and from 14 on one group leaves fewer than 14. -/
theorem eputDrainLoopRunsAtMostOnce : Obligations.EputDrainLoopRunsAtMostOnce := by
  intro u b h
  by_cases hn : u.ecnt.toNat + 8 < 14
  · rw [if_pos hn, encPut_of_short h b hn]
  · rw [if_neg hn, encPut_of_long h b (by omega)]

/-- Settles O12: EPUT is the merge, followed by one group where 14 bits are reached. -/
theorem eputAbsorbsOneByte : Obligations.EputAbsorbsOneByte := by
  refine ⟨fun s b => ⟨_, exec_eput b s⟩, fun s b h => ?_⟩
  have hebuf := encMerge_ebuf_toNat h b
  have hecnt := encMerge_ecnt_toNat h b
  refine ⟨_, exec_eput b s, rfl, rfl, encPut_eres b s.enc, fun hn => ?short, fun hn => ?long⟩
  case short =>
    rw [State.onEnc_enc, encPut_of_short h b hn]
    exact ⟨hebuf, hecnt, rfl⟩
  case long =>
    rw [State.onEnc_enc, encPut_of_long h b hn, ← hebuf, ← hecnt, ← encWidth_eq]
    exact ⟨encGroup_ebuf_toNat _, encGroup_ecnt_toNat (by omega), encGroup_eout _⟩

/-! ## The invariant R14 -/

theorem encPut_encInv {u : EncUnit} (h : EncInv u) (b : Byte) : EncInv (encPut b u) := by
  have hecnt := encMerge_ecnt_toNat h b
  have hebuf := encMerge_ebuf_lt h b
  by_cases hn : u.ecnt.toNat + 8 < 14
  · rw [encPut_of_short h b hn]
    exact ⟨by omega, hebuf⟩
  · obtain ⟨hrest, hbuf⟩ := encGroup_bits (by omega) hebuf
    rw [encPut_of_long h b (by omega)]
    exact ⟨by omega, hbuf⟩

theorem encEffect_encInv (i : Instr) {u : EncUnit} (h : EncInv u) : EncInv (encEffect i u) := by
  cases i with
  | einit | eend => exact encInv_of_empty rfl rfl
  | eput b => exact encPut_encInv h b
  | dinit | dsym _ | dbad _ | dend => exact h

/-- Settles O16: reset and every command end in R14, and the merge adds 8 bits to at most 13. -/
theorem encoderInvariantIsKept : Obligations.EncoderInvariantIsKept := by
  refine ⟨encInv_of_empty rfl rfl, fun i s t _ h hexec => ?_, fun u b h => ⟨?_, encMerge_ebuf_lt h b⟩⟩
  · obtain ⟨-, rfl⟩ := exec_eq_next_iff.1 hexec
    exact encEffect_encInv i h
  · rw [encMerge_ecnt_toNat h b]
    obtain ⟨hcnt, -⟩ := h
    exact Nat.add_le_add_right hcnt 8

/-! ## EEND -/

/-- Where the flush appends `tail`, EEND publishes EOUT with `tail` and leaves ENC initial (R116). -/
theorem encEnd_of_encFlush {u : EncUnit} {tail : List Symbol} (h : encFlush u = u.append tail) :
    encEnd u = { ebuf := 0, ecnt := 0, eout := [], eres := u.eres ++ [u.eout ++ tail] } := by
  rw [encEnd, h]
  rfl

/-- Settles O14: under R14 the flush is the tail of the case table. -/
theorem eendFlushesAndPublishes : Obligations.EendFlushesAndPublishes := by
  intro s h
  obtain ⟨tail, htail, hflush⟩ := encFlush_eq_append_tailValues h
  exact ⟨tail, htail, by rw [exec_eend, State.onEnc, encEnd_of_encFlush hflush]⟩

/-! ## ENCODE does not read ERES -/

/-- ENC with another result log. -/
def withEres (r : List (List Symbol)) (u : EncUnit) : EncUnit := { u with eres := r }

theorem encDrain_withEres (n : Nat) (r : List (List Symbol)) (u : EncUnit) :
    encDrain n (withEres r u) = withEres r (encDrain n u) := by
  induction n generalizing u with
  | zero => rfl
  | succ n ih =>
    by_cases h : 14 ≤ u.ecnt.toNat
    · rw [encDrain_go n u h, encDrain_go n (withEres r u) h]
      exact ih (encGroup u)
    · rw [encDrain_stop _ u (Nat.lt_of_not_le h), encDrain_stop _ (withEres r u) (Nat.lt_of_not_le h)]

theorem encPut_withEres (b : Byte) (r : List (List Symbol)) (u : EncUnit) :
    encPut b (withEres r u) = withEres r (encPut b u) :=
  encDrain_withEres _ r (encMerge b u)

theorem encPuts_withEres (bs : List Byte) (r : List (List Symbol)) (u : EncUnit) :
    encPuts bs (withEres r u) = withEres r (encPuts bs u) := by
  induction bs generalizing u with
  | nil => rfl
  | cons b bs ih => rw [encPuts_cons, encPuts_cons, encPut_withEres, ih]

theorem encFlush_withEres (r : List (List Symbol)) (u : EncUnit) :
    encFlush (withEres r u) = withEres r (encFlush u) := by
  simp only [encFlush, apply_ite (withEres r)]
  rfl

/-- Settles O35: the call starts as one from reset but for ERES, which no command reads and EEND only appends to. -/
theorem encodeCallPublishesAFunctionOfItsBytes : Obligations.EncodeCallPublishesAFunctionOfItsBytes := by
  intro s bs
  obtain ⟨tail, -, -, hflush⟩ := encFlush_eq_append (encPuts bs EncUnit.reset)
  refine ⟨(encPuts bs EncUnit.reset).eout ++ tail, ?entry, ?call⟩
  case entry => rw [encodeValues_eq, encEnd_of_encFlush hflush, List.getLast?_concat]
  case call =>
    have hclear : s.enc.clear = withEres s.enc.eres EncUnit.reset := rfl
    have hflush' : encFlush (withEres s.enc.eres (encPuts bs EncUnit.reset)) =
        (withEres s.enc.eres (encPuts bs EncUnit.reset)).append tail := by
      rw [encFlush_withEres, hflush]
      rfl
    rw [issue_encodeCommands, hclear, encPuts_withEres, encEnd_of_encFlush hflush']
    rfl

/-! ## The length of the entry -/

/-- A pair carries 13 or 14 bits (R68). -/
theorem pairBits_count_bounds (xs : List Symbol) :
    13 * (xs.length / 2) ≤ (pairBits xs).2 ∧ (pairBits xs).2 ≤ 14 * (xs.length / 2) := by
  match xs with
  | [] | [_] => simp [pairBits]
  | d0 :: d1 :: rest =>
    obtain ⟨hlow, hhigh⟩ := pairBits_count_bounds rest
    simp only [pairBits, List.length_cons]
    split <;> omega

theorem length_tailValues_le (n x : Nat) : (tailValues n x).length ≤ 2 := by
  unfold tailValues
  split
  · exact Nat.zero_le 2
  split
  · exact Nat.le_succ 1
  · exact Nat.le_refl 2

/-- Settles O37: the pairs carry all but at most 13 of the 8L bits, 13 or 14 each, and the tail is <= 2 symbols. -/
theorem encodedLengthIsBounded : Obligations.EncodedLengthIsBounded := by
  intro bs
  obtain ⟨pairs, tail, n, x, hentry, -, heven, hn, -, htail, -, hcount⟩ := encodedEntryIsPairsAndTail.2 bs
  obtain ⟨hlow, hhigh⟩ := pairBits_count_bounds pairs
  have htail' : tail.length ≤ 2 := by
    rw [← List.length_map, htail]
    exact length_tailValues_le n x
  refine ⟨pairs ++ tail, hentry, ?_⟩
  rw [List.length_append]
  omega

end Sys2Proof.Proofs

/-! The commands of the decoder (spec/42_decoder.md): the registers DINIT, DSYM, DBAD and DEND write, the numbers a pair and the
tail step leave in DBUF and DOUT, the invariant R19, and FAULT, which DINIT alone leaves. -/

namespace Sys2Proof.Proofs

open Sys2Proof.Machine

/-! ## DINIT -/

theorem init_of_decInitial {u : DecUnit} (h : DecInitial u) : u.init = u := by
  obtain ⟨hbuf, hcnt, hpend, hpos, hout, hstat, hinfo⟩ := h
  cases u
  subst hbuf hcnt hpend hpos hout hstat hinfo
  rfl

/-- Settles O20: DINIT initialises DEC, and initialising an initial unit changes nothing. -/
theorem dinitRestartsTheDecoder : Obligations.DinitRestartsTheDecoder := by
  refine ⟨fun s => rfl, fun s h => ?_⟩
  rw [exec_dinit, State.onDec, init_of_decInitial h]

/-! ## DSYM: the first symbol of a pair -/

theorem exec_dsym_run {s : State} {v : Symbol} (hv : v.toNat ≤ 93) (hrun : s.dec.dstat.state = .run) :
    exec (.dsym v) s = .next { s with dec := decSymbol v s.dec } := by
  rw [exec_dsym v s ((legal_iff v).2 hv), State.onDec, DecUnit.whenRun_run _ _ hrun]

/-- Settles O21: with nothing pending the symbol is stored and counted. -/
theorem dsymStoresTheFirstOfAPair : Obligations.DsymStoresTheFirstOfAPair := by
  intro s v hrun hpend hv
  rw [exec_dsym_run hv hrun, decSymbol_first hpend]
  rfl

/-! ## DSYM: the second symbol of a pair -/

/-- Under R19 the count after the merge is exact, and at most 21 (R135). -/
theorem decMerge_dcnt_toNat {u : DecUnit} (h : DecInv u) (v : Value) :
    (decMerge v u).dcnt.toNat = u.dcnt.toNat + widthOf v := by
  obtain ⟨hcnt, -⟩ := h
  have := widthOf_eq_or v
  exact addCnt_toNat _ u.dcnt (by omega)

/-- Under R19 the value stands above the valid bits, and none of its bits leaves the register (R135). -/
theorem decMerge_dbuf_toNat {u : DecUnit} (h : DecInv u) (v : Value) :
    (decMerge v u).dbuf.toNat = u.dbuf.toNat + v.toNat * 2 ^ u.dcnt.toNat := by
  obtain ⟨hcnt, hbuf⟩ := h
  have hfit : v.toNat * 2 ^ u.dcnt.toNat < 2 ^ 14 * 2 ^ 7 :=
    Nat.mul_lt_mul_of_lt_of_le v.isLt (Nat.pow_le_pow_right (by decide) hcnt) (by decide)
  rw [← zextValue_toNat v] at hfit ⊢
  exact merge_toNat u.dbuf u.dcnt _ hbuf hfit

theorem decMerge_dbuf_lt {u : DecUnit} (h : DecInv u) {v : Value} (hv : v.toNat ≤ 8835) :
    (decMerge v u).dbuf.toNat < 2 ^ (decMerge v u).dcnt.toNat := by
  have := widthOf_eq_or v
  obtain ⟨hcnt, hbuf⟩ := h
  exact merge_lt (widthOf v) hbuf (by rw [zextValue_toNat]; exact lt_two_pow_widthOf hv) (by omega)

theorem decByte_dbuf_toNat (u : DecUnit) : (decByte u).dbuf.toNat = u.dbuf.toNat / 2 ^ 8 := takeBuf_toNat 8 u.dbuf

theorem decByte_dcnt_toNat {u : DecUnit} (h : 8 ≤ u.dcnt.toNat) : (decByte u).dcnt.toNat = u.dcnt.toNat - 8 :=
  takeCnt_toNat 8 u.dcnt h

theorem takeOut_eq_ofNat (w : Nat) (buf : Acc) : takeOut w buf = BitVec.ofNat w buf.toNat := by
  apply BitVec.eq_of_toNat_eq
  rw [takeOut_toNat, BitVec.toNat_ofNat]

theorem decByte_dout (u : DecUnit) : (decByte u).dout = u.dout ++ [BitVec.ofNat 8 u.dbuf.toNat] := by
  rw [← takeOut_eq_ofNat]
  rfl

/-- Below 16 bits the drain runs once (R136). -/
theorem decPair_of_short {u : DecUnit} (h : DecInv u) (v : Value) (hn : u.dcnt.toNat + widthOf v < 16) :
    decPair v u = decByte (decMerge v (u.setPend none)) := by
  have hcnt : (decMerge v (u.setPend none)).dcnt.toNat = u.dcnt.toNat + widthOf v := decMerge_dcnt_toNat h v
  have := widthOf_eq_or v
  have hcnt' := decByte_dcnt_toNat (u := decMerge v (u.setPend none)) (by omega)
  obtain ⟨k, hk⟩ : ∃ k, (decMerge v (u.setPend none)).dcnt.toNat = k + 1 := Nat.exists_eq_add_one.2 (by omega)
  rw [decPair, hk, decDrain_go _ _ (by omega), decDrain_stop _ _ (by omega)]

/-- From 16 bits on the drain runs twice, and at most 5 of the at most 21 bits are left (R136). -/
theorem decPair_of_long {u : DecUnit} (h : DecInv u) (v : Value) (hn : 16 ≤ u.dcnt.toNat + widthOf v) :
    decPair v u = decByte (decByte (decMerge v (u.setPend none))) := by
  have hcnt : (decMerge v (u.setPend none)).dcnt.toNat = u.dcnt.toNat + widthOf v := decMerge_dcnt_toNat h v
  have := widthOf_eq_or v
  have hcnt' := decByte_dcnt_toNat (u := decMerge v (u.setPend none)) (by omega)
  have hcnt'' := decByte_dcnt_toNat (u := decByte (decMerge v (u.setPend none))) (by omega)
  obtain ⟨hle, -⟩ := h
  obtain ⟨k, hk⟩ : ∃ k, (decMerge v (u.setPend none)).dcnt.toNat = k + 2 := Nat.exists_eq_add_of_le' (by omega)
  rw [decPair, hk, decDrain_go _ _ (by omega), decDrain_go _ _ (by omega), decDrain_stop _ _ (by omega)]

/-- Settles O22: the pair is the merge of the combined value, followed by one byte of the drain or by two. -/
theorem dsymCompletesAPair : Obligations.DsymCompletesAPair := by
  intro s p v hrun hinv hpend hp hv c w x n
  have hc : (combine p v).toNat = c := combine_toNat p v
  have hw : widthOf (combine p v) = w := by rw [widthOf_eq, hc]
  have hwle := widthOf_eq_or (combine p v)
  have hinv' : DecInv (s.dec.setPend none) := hinv
  have hbuf : (decMerge (combine p v) (s.dec.setPend none)).dbuf.toNat = x := by
    rw [decMerge_dbuf_toNat hinv', hc, DecUnit.setPend_dbuf, DecUnit.setPend_dcnt]
  have hcnt : (decMerge (combine p v) (s.dec.setPend none)).dcnt.toNat = n := by
    rw [decMerge_dcnt_toNat hinv', hw, DecUnit.setPend_dcnt]
  have hout : (decMerge (combine p v) (s.dec.setPend none)).dout = s.dec.dout := rfl
  obtain ⟨hpend', hpos, hstat, hinfo, hres⟩ := decPair_frame (combine p v) s.dec
  refine ⟨_, exec_dsym_run hv hrun, rfl, rfl, ?_⟩
  simp only [decSymbol_second hpend, DecUnit.bumpPos_dpend, DecUnit.bumpPos_dpos, DecUnit.bumpPos_dstat,
    DecUnit.bumpPos_dinfo, DecUnit.bumpPos_dres, DecUnit.bumpPos_dout, DecUnit.bumpPos_dbuf, DecUnit.bumpPos_dcnt]
  refine ⟨hpend', by rw [hpos], hstat, hinfo, hres, fun hn => ?short, fun hn => ?long⟩
  case short =>
    rw [decPair_of_short hinv _ (by rwa [hw]), decByte_dout, decByte_dbuf_toNat, decByte_dcnt_toNat (by omega), hbuf,
      hcnt, hout]
    exact ⟨rfl, rfl, rfl⟩
  case long =>
    have hcnt' := decByte_dcnt_toNat (u := decMerge (combine p v) (s.dec.setPend none)) (by omega)
    rw [decPair_of_long hinv _ (by rwa [hw]), decByte_dout, decByte_dbuf_toNat, decByte_dcnt_toNat (by omega), hcnt',
      decByte_dout, decByte_dbuf_toNat, decByte_dbuf_toNat, hbuf, hcnt, hout, Nat.div_div_eq_div_mul, List.append_assoc,
      Nat.sub_sub]
    exact ⟨rfl, rfl, rfl⟩

/-! ## DEND -/

theorem decTail_of_none {u : DecUnit} (h : u.dpend = none) : decTail u = u := by
  simp [decTail, h]

/-- Under R19 the tail step moves the low byte of DBUF with the pending value above it to DOUT (R137). -/
theorem decTail_of_some {u : DecUnit} {p : Symbol} (h : DecInv u) (hp : u.dpend = some p) :
    (decTail u).dout = u.dout ++ [BitVec.ofNat 8 (u.dbuf.toNat + p.toNat * 2 ^ u.dcnt.toNat)] ∧
      (decTail u).dbuf.toNat = (u.dbuf.toNat + p.toNat * 2 ^ u.dcnt.toNat) / 2 ^ 8 := by
  obtain ⟨hcnt, hbuf⟩ := h
  have hfit : p.toNat * 2 ^ u.dcnt.toNat < 2 ^ 7 * 2 ^ 14 :=
    Nat.mul_lt_mul_of_lt_of_le p.isLt (Nat.pow_le_pow_right (by decide) (by omega)) (by decide)
  have hmerge : (merge u.dbuf u.dcnt (zextSymbol p)).toNat = u.dbuf.toNat + p.toNat * 2 ^ u.dcnt.toNat := by
    rw [← zextSymbol_toNat p] at hfit ⊢
    exact merge_toNat u.dbuf u.dcnt _ hbuf hfit
  rw [← hmerge, ← takeOut_eq_ofNat, ← takeBuf_toNat]
  simp [decTail, hp]

theorem decEnd_of_zero {u : DecUnit} (h : (decTail u).dbuf = 0) :
    decEnd u = (u.publish (.ok (decTail u).dout)).clearCall := by
  obtain ⟨buf, bs, -, ht⟩ := decTail_eq_setBits_append u
  rw [decEnd, if_pos ((padOk_iff _).2 h), ht]
  rfl

theorem decEnd_of_ne_zero {u : DecUnit} (h : (decTail u).dbuf ≠ 0) : decEnd u = u.raise .invalidPadding := by
  obtain ⟨buf, bs, -, ht⟩ := decTail_eq_setBits_append u
  rw [decEnd, if_neg (mt (padOk_iff _).1 h), ht]
  rfl

/-- A value `p` above `c` valid bits reaches past bit 7 exactly when `p >= 2^(8-c)` (R137). -/
theorem add_mul_two_pow_div_ne_zero_iff {b c : Nat} (hb : b < 2 ^ c) (hc : c ≤ 8) (p : Nat) :
    (b + p * 2 ^ c) / 2 ^ 8 ≠ 0 ↔ 2 ^ (8 - c) ≤ p := by
  have hsplit : 2 ^ 8 = 2 ^ (8 - c) * 2 ^ c := by rw [← Nat.pow_add, Nat.sub_add_cancel hc]
  rw [hsplit, Nat.div_ne_zero_iff, and_iff_right (by positivity)]
  constructor
  · intro hle
    by_contra hlt
    have := Nat.mul_le_mul_right (2 ^ c) (Nat.succ_le_of_lt (Nat.lt_of_not_le hlt))
    rw [Nat.succ_mul] at this
    omega
  · intro hle
    exact (Nat.mul_le_mul_right (2 ^ c) hle).trans (Nat.le_add_left ..)

/-- Settles O24: DEND publishes or faults by what the tail step leaves in DBUF. -/
theorem dendPublishesOrFaults : Obligations.DendPublishesOrFaults := by
  intro s hrun hinv x residual bytes
  have htail : (decTail s.dec).dout = bytes ∧ (decTail s.dec).dbuf.toNat = residual := by
    cases hp : s.dec.dpend with
    | none => simp [decTail_of_none hp, bytes, residual, hp]
    | some p => simpa [bytes, residual, x, hp] using decTail_of_some hinv hp
  obtain ⟨hout, hbuf⟩ := htail
  have hexec : exec .dend s = .next { s with dec := decEnd s.dec } := by
    rw [exec_dend, State.onDec, DecUnit.whenRun_run _ _ hrun]
  refine ⟨fun hzero => ?_, fun hne => ?_, fun p hp => ?_⟩
  · rw [hexec, decEnd_of_zero (BitVec.eq_of_toNat_eq (hbuf.trans hzero)), hout]
    rfl
  · rw [hexec, decEnd_of_ne_zero fun h0 => hne (by rw [← hbuf, h0]; rfl)]
    rfl
  · obtain ⟨hcnt, hlt⟩ := hinv
    simpa [residual, x, hp] using add_mul_two_pow_div_ne_zero_iff hlt (by omega) p.toNat

/-! ## DBAD -/

/-- Settles O25: DBAD in RUN is fault entry. -/
theorem dbadEntersInvalidCharacter : Obligations.DbadEntersInvalidCharacter := by
  intro s ch hrun
  rw [exec_dbad, State.onDec, DecUnit.whenRun_run _ _ hrun]
  rfl

/-! ## FAULT -/

/-- In FAULT only DINIT has an effect on DEC (R141). -/
theorem decEffect_of_fault {i : Instr} (hi : i ≠ .dinit) {u : DecUnit} (h : u.dstat.state = .fault) :
    decEffect i u = u := by
  cases i with
  | dinit => exact absurd rfl hi
  | dsym _ | dbad _ | dend => exact DecUnit.whenRun_fault u _ h
  | einit | eput _ | eend => rfl

theorem exec_of_fault {i : Instr} (hwf : i.wf = true) (hunit : i.unit = .dec) (hi : i ≠ .dinit) {s : State}
    (h : s.dec.dstat.state = .fault) : exec i s = .next s := by
  rw [exec_of_wf i s hwf, encEffect_of_unit_dec hunit, decEffect_of_fault hi h]

/-- A port reads the word of a command as a command of the same row, if at all (R64). -/
theorem opcode_of_commandAt_arrivalOf {i j : Instr} (h : commandAt (arrivalOf i) = some j) : opcode j = opcode i := by
  obtain ⟨-, hdec⟩ := commandAt_eq_some_iff.1 h
  obtain ⟨-, hword⟩ := decode_eq_ok_iff.1 hdec
  rw [← opField_encode_toNat j, hword, ← opField_encode_toNat i]
  rfl

theorem opcode_eq_four_iff (i : Instr) : opcode i = 4 ↔ i = .dinit := by
  cases i <;> simp [opcode]

/-- No stream of commands without DINIT changes DEC in FAULT: each word is refused, or dropped, or ENC's (R141). -/
theorem issue_dec_of_fault {is : List Instr} (his : .dinit ∉ is) {s : State} (h : s.dec.dstat.state = .fault) :
    (issue s is).dec = s.dec := by
  induction is generalizing s with
  | nil => rfl
  | cons i is ih =>
    rw [List.mem_cons, not_or] at his
    obtain ⟨hi, his'⟩ := his
    have hoffer : (offer s (arrivalOf i)).1.dec = s.dec := by
      cases hc : commandAt (arrivalOf i) with
      | none => rw [offer_fst_of_none hc]
      | some j =>
        have hj : j ≠ .dinit := by
          rintro rfl
          exact hi ((opcode_eq_four_iff i).1 (opcode_of_commandAt_arrivalOf hc).symm).symm
        rw [offer_fst_of_some hc, applyCommand_dec, decEffect_of_fault hj h]
    rw [← hoffer] at h ⊢
    exact ih his' h

/-- Settles O27: DEC's other commands are dropped in FAULT, one by one and in a stream. -/
theorem faultStateIsLeftByDinitAlone : Obligations.FaultStateIsLeftByDinitAlone := by
  intro s h
  refine ⟨fun v hv => ?_, fun ch => ?_, ?_, fun is his => issue_dec_of_fault his h, _, exec_dinit s, rfl⟩
  · exact exec_of_fault (i := .dsym v) ((legal_iff v).2 hv) rfl (by simp) h
  · exact exec_of_fault rfl rfl (by simp) h
  · exact exec_of_fault rfl rfl (by simp) h

/-! ## The invariant R19 -/

/-- R19 with what it needs of DPEND: a symbol value pending, if any, and the bound on DBUF in RUN. -/
def DecRunInv (u : DecUnit) : Prop := u.dpend.all Symbol.legal = true ∧ (u.dstat.state = .run → DecInv u)

/-- An empty buffer meets R19. -/
theorem decRunInv_of_cleared {u : DecUnit} (hpend : u.dpend = none) (hbuf : u.dbuf = 0) (hcnt : u.dcnt = 0) :
    DecRunInv u := by
  refine ⟨by rw [hpend]; rfl, fun _ => ?_⟩
  rw [DecInv, hbuf, hcnt]
  decide

theorem decSymbol_decRunInv {u : DecUnit} (h : DecRunInv u) (hrun : u.dstat.state = .run) {v : Symbol}
    (hv : Symbol.legal v = true) : DecRunInv (decSymbol v u) := by
  obtain ⟨hlegal, hinv⟩ := h
  cases hp : u.dpend with
  | none =>
    rw [decSymbol_first hp]
    exact ⟨hv, hinv⟩
  | some p =>
    obtain ⟨hpend, -⟩ := decPair_frame (combine p v) u
    obtain ⟨hinv', -⟩ := decPair_bits (hinv hrun) (combine_le (by simpa [hp] using hlegal) hv)
    rw [decSymbol_second hp]
    exact ⟨by rw [DecUnit.bumpPos_dpend, hpend]; rfl, fun _ => hinv'⟩

theorem decEnd_decRunInv (u : DecUnit) : DecRunInv (decEnd u) := by
  obtain ⟨bs, -, hd⟩ | hd := decEnd_cases u
  · rw [hd]
    exact decRunInv_of_cleared rfl rfl rfl
  · rw [hd]
    exact decRunInv_of_cleared rfl rfl rfl

/-- A command that is dropped in FAULT keeps whatever its effect keeps in RUN (R141). -/
theorem whenRun_keeps {P : DecUnit → Prop} {u : DecUnit} {f : DecUnit → DecUnit} (h : P u)
    (hf : u.dstat.state = .run → P (f u)) : P (u.whenRun f) := by
  cases hs : u.dstat.state with
  | run => rw [DecUnit.whenRun_run u f hs]; exact hf hs
  | fault => rw [DecUnit.whenRun_fault u f hs]; exact h

theorem decEffect_decRunInv {i : Instr} (hwf : i.wf = true) {u : DecUnit} (h : DecRunInv u) :
    DecRunInv (decEffect i u) := by
  cases i with
  | dinit => exact decRunInv_of_cleared rfl rfl rfl
  | dsym v => exact whenRun_keeps h fun hrun => decSymbol_decRunInv h hrun hwf
  | dbad ch => exact whenRun_keeps h fun _ => decRunInv_of_cleared rfl rfl rfl
  | dend => exact whenRun_keeps h fun _ => decEnd_decRunInv u
  | einit | eput _ | eend => exact h

/-- Settles O28: reset and every legal command end in R19, and the merge adds at most 14 bits to at most 7. -/
theorem decoderInvariantIsKept : Obligations.DecoderInvariantIsKept := by
  refine ⟨by decide, fun i s t _ hlegal hinv hexec => ?_, fun u v h hv => ⟨?_, decMerge_dbuf_lt h hv⟩⟩
  · obtain ⟨hwf, rfl⟩ := exec_eq_next_iff.1 hexec
    exact decEffect_decRunInv hwf ⟨hlegal, hinv⟩
  · rw [decMerge_dcnt_toNat h v]
    have := widthOf_eq_or v
    obtain ⟨hcnt, -⟩ := h
    omega

end Sys2Proof.Proofs

/-! DECODE (spec/42_decoder.md section 2): the call's commands as effects on DEC, what the call ends in, that its entry does not
depend on DRES, the bits that the bytes written and DBUF together hold, and the round trip with ENCODE. -/

namespace Sys2Proof.Proofs

open Sys2Proof.Machine

/-! ## The DECODE call as effects on DEC -/

/-- The word of a legal command, on the port of its unit, is read back as that command (R60, R64). -/
theorem commandAt_arrivalOf {i : Instr} (h : i.wf = true) : commandAt (arrivalOf i) = some i := by
  have hdec : decode (encode i) = .ok i := decodeOfEncodeIsTheCommand i h
  obtain ⟨-, hunit⟩ := wf_and_unit_of_decode hdec
  exact commandAt_eq_some_iff.2 ⟨hunit.symm, hdec⟩

/-- A list of legal commands of DEC runs as the effects on DEC one after another, and changes nothing else (R10). -/
theorem issue_eq_foldl_decEffect (s : State) (is : List Instr) (h : ∀ i ∈ is, i.unit = .dec ∧ i.wf = true) :
    issue s is = { s with dec := is.foldl (fun u i => decEffect i u) s.dec } := by
  induction is generalizing s with
  | nil => rfl
  | cons i is ih =>
    obtain ⟨hunit, hwf⟩ := h i (List.mem_cons_self ..)
    have hcons : issue s (i :: is) = issue { s with dec := decEffect i s.dec } is := by
      rw [issue, List.map_cons, offerAll_cons_fst, offer_fst_of_some (commandAt_arrivalOf hwf), applyCommand,
        encEffect_of_unit_dec hunit, issue]
    rw [hcons, ih _ fun j hj => h j (List.mem_cons_of_mem i hj), List.foldl_cons]

/-- The items of a call and its DEND, as effects on DEC (R76). -/
def decCall (xs : List Item) (u : DecUnit) : DecUnit :=
  (xs.foldl (fun u x => decEffect x.command u) u).whenRun decEnd

@[simp] theorem decCall_cons (x : Item) (xs : List Item) (u : DecUnit) :
    decCall (x :: xs) u = decCall xs (decEffect x.command u) := rfl

/-- DECODE initialises DEC, then does the items and DEND (R76). -/
theorem issue_decodeCommands (s : State) {xs : List Item} (h : ∀ x ∈ xs, ItemLegal x) :
    issue s (decodeCommands xs) = { s with dec := decCall xs s.dec.init } := by
  rw [decodeCommands, issue_eq_foldl_decEffect]
  · rw [List.foldl_cons, List.foldl_append, List.foldl_map]
    rfl
  · simp only [List.mem_cons, List.mem_append, List.mem_map, List.not_mem_nil, or_false]
    rintro i (rfl | ⟨x, hx, rfl⟩ | rfl)
    · exact ⟨rfl, rfl⟩
    · exact ⟨by cases x <;> rfl, h x hx⟩
    · exact ⟨rfl, rfl⟩

theorem decodeValues_eq {xs : List Item} (h : ∀ x ∈ xs, ItemLegal x) :
    decodeValues xs = (decCall xs DecUnit.reset).dres.getLast? := by
  rw [decodeValues, issue_decodeCommands _ h]
  rfl

/-! ## What a call ends in -/

/-- The DSYMs of a call in RUN, one for each symbol in order. -/
def decSymbols (vs : List Symbol) (u : DecUnit) : DecUnit := vs.foldl (fun u v => decSymbol v u) u

@[simp] theorem decSymbols_nil (u : DecUnit) : decSymbols [] u = u := rfl
@[simp] theorem decSymbols_cons (v : Symbol) (vs : List Symbol) (u : DecUnit) :
    decSymbols (v :: vs) u = decSymbols vs (decSymbol v u) := rfl

theorem decSymbols_concat (vs : List Symbol) (v : Symbol) (u : DecUnit) :
    decSymbols (vs ++ [v]) u = decSymbol v (decSymbols vs u) := by
  simp [decSymbols]

/-- A symbol is counted, and the status registers stay (R131). -/
theorem decSymbol_frame (v : Symbol) (u : DecUnit) :
    (decSymbol v u).dpos = u.dpos + 1 ∧ (decSymbol v u).dstat = u.dstat ∧ (decSymbol v u).dinfo = u.dinfo := by
  cases hp : u.dpend with
  | none =>
    rw [decSymbol_first hp]
    exact ⟨rfl, rfl, rfl⟩
  | some p =>
    obtain ⟨-, hpos, hstat, hinfo, -⟩ := decPair_frame (combine p v) u
    rw [decSymbol_second hp]
    exact ⟨congrArg (· + 1) hpos, hstat, hinfo⟩

/-- Symbols are counted, and the status registers and the log stay (R131). -/
theorem decSymbols_frame (vs : List Symbol) (u : DecUnit) :
    (decSymbols vs u).dpos = u.dpos + vs.length ∧ (decSymbols vs u).dstat = u.dstat ∧
      (decSymbols vs u).dinfo = u.dinfo ∧ (decSymbols vs u).dres = u.dres := by
  induction vs generalizing u with
  | nil => exact ⟨rfl, rfl, rfl, rfl⟩
  | cons v vs ih =>
    obtain ⟨hpos, hstat, hinfo, hres⟩ := ih (decSymbol v u)
    obtain ⟨hpos', hstat', hinfo'⟩ := decSymbol_frame v u
    refine ⟨?_, hstat.trans hstat', hinfo.trans hinfo', hres.trans (decSymbol_dres v u)⟩
    rw [decSymbols_cons, hpos, hpos', List.length_cons, Nat.add_assoc, Nat.add_comm 1]

theorem reset_inv : DecUnitInv DecUnit.reset := init_inv DecUnit.reset

theorem decSymbols_inv {vs : List Symbol} (hvs : ∀ v ∈ vs, Symbol.legal v = true) {u : DecUnit} (h : DecUnitInv u)
    (hrun : u.dstat.state = .run) : DecUnitInv (decSymbols vs u) := by
  induction vs generalizing u with
  | nil => exact h
  | cons v vs ih =>
    obtain ⟨hv, hvs'⟩ := List.forall_mem_cons.1 hvs
    obtain ⟨-, hstat, -⟩ := decSymbol_frame v u
    exact ih hvs' (decSymbol_inv h hrun hv) (by rw [hstat, hrun])

/-- In RUN the items that are symbols do what DSYM does. -/
theorem decCall_symbols_append (vs : List Symbol) (xs : List Item) {u : DecUnit} (hrun : u.dstat.state = .run) :
    decCall (vs.map .sym ++ xs) u = decCall xs (decSymbols vs u) := by
  induction vs generalizing u with
  | nil => rfl
  | cons v vs ih =>
    obtain ⟨-, hstat, -⟩ := decSymbol_frame v u
    have heffect : decEffect (Item.sym v).command u = decSymbol v u := DecUnit.whenRun_run u _ hrun
    rw [List.map_cons, List.cons_append, decCall_cons, heffect, decSymbols_cons]
    exact ih (by rw [hstat, hrun])

/-- A call of symbols alone ends in DEND (R137). -/
theorem decCall_symbols (vs : List Symbol) {u : DecUnit} (hrun : u.dstat.state = .run) :
    decCall (vs.map .sym) u = decEnd (decSymbols vs u) := by
  obtain ⟨-, hstat, -⟩ := decSymbols_frame vs u
  have hrun' : (decSymbols vs u).dstat.state = .run := by rw [hstat, hrun]
  rw [← List.append_nil (vs.map Item.sym), decCall_symbols_append vs [] hrun]
  exact DecUnit.whenRun_run _ _ hrun'

/-- In FAULT the rest of a call is dropped (R141). -/
theorem decCall_of_fault (xs : List Item) {u : DecUnit} (h : u.dstat.state = .fault) : decCall xs u = u := by
  induction xs with
  | nil => exact DecUnit.whenRun_fault u _ h
  | cons x xs ih =>
    have hx : x.command ≠ .dinit := by cases x <;> simp [Item.command]
    rw [decCall_cons, decEffect_of_fault hx h, ih]

theorem raise_eq_of_dres {u u' : DecUnit} (h : u.dres = u'.dres) (f : DecFault) : u.raise f = u'.raise f := by
  simp only [DecUnit.raise, DecUnit.clearCall, DecUnit.setStatus, DecUnit.publish, h]

/-- A call with a character outside the alphabet ends in fault entry at the first one, whatever follows it (R140, R141). -/
theorem decCall_bad (vs : List Symbol) (ch : CharCode) (xs : List Item) {u : DecUnit} (hrun : u.dstat.state = .run) :
    decCall (vs.map .sym ++ .bad ch :: xs) u = u.raise (.invalidCharacter ch (u.dpos + vs.length)) := by
  obtain ⟨hpos, hstat, -, hres⟩ := decSymbols_frame vs u
  have heffect : decEffect (Item.bad ch).command (decSymbols vs u) =
      u.raise (.invalidCharacter ch (u.dpos + vs.length)) := by
    rw [← hpos, ← raise_eq_of_dres hres]
    exact DecUnit.whenRun_run _ _ (by rw [hstat, hrun])
  rw [decCall_symbols_append vs _ hrun, decCall_cons, heffect, decCall_of_fault xs rfl]

/-- Items are all symbols, or there is a first character outside the alphabet. -/
theorem items_cases (xs : List Item) :
    (∃ vs : List Symbol, xs = vs.map .sym) ∨
      ∃ (vs : List Symbol) (ch : CharCode) (rest : List Item), xs = vs.map .sym ++ .bad ch :: rest := by
  induction xs with
  | nil => exact .inl ⟨[], rfl⟩
  | cons x xs ih =>
    cases x with
    | bad ch => exact .inr ⟨[], ch, xs, rfl⟩
    | sym v =>
      obtain ⟨vs, rfl⟩ | ⟨vs, ch, rest, rfl⟩ := ih
      · exact .inl ⟨v :: vs, rfl⟩
      · exact .inr ⟨v :: vs, ch, rest, rfl⟩

theorem legal_of_items {vs : List Symbol} (h : ∀ x ∈ vs.map Item.sym, ItemLegal x) :
    ∀ v ∈ vs, Symbol.legal v = true :=
  fun _ hv => h _ (List.mem_map_of_mem hv)

theorem items_legal {vs : List Symbol} (h : ∀ v ∈ vs, Symbol.legal v = true) :
    ∀ x ∈ vs.map Item.sym, ItemLegal x :=
  List.forall_mem_map.2 h

/-- The tail step appends one byte exactly when a symbol is pending, which is when the count is odd (R137, R21). -/
theorem length_decTail_dout {u : DecUnit} (hbits : DecInv u) (hpend : DecPendInv u) :
    (decTail u).dout.length = u.dout.length + u.dpos % 2 := by
  obtain ⟨-, hparity⟩ := hpend
  cases hp : u.dpend with
  | none => simpa [decTail_of_none hp, hp] using hparity
  | some p =>
    obtain ⟨hout, -⟩ := decTail_of_some hbits hp
    simp [hout, hparity, hp]

/-- A call of legal symbols from reset publishes the bytes of the tail step and leaves DEC initial, or faults (R137 to R139);
the number of bytes is bounded by the number of symbols (R144). -/
theorem decCall_symbols_cases {vs : List Symbol} (h : ∀ v ∈ vs, Symbol.legal v = true) :
    (∃ bytes : List Byte, decCall (vs.map .sym) DecUnit.reset = { DecUnit.reset with dres := [.ok bytes] } ∧
      vs.length / 2 + vs.length % 2 ≤ bytes.length ∧ bytes.length ≤ 2 * (vs.length / 2) + vs.length % 2) ∨
    decCall (vs.map .sym) DecUnit.reset = DecUnit.reset.raise .invalidPadding := by
  obtain ⟨hpos, hstat, hinfo, hres⟩ := decSymbols_frame vs DecUnit.reset
  obtain ⟨hbits, hpend, ⟨hlow, hhigh⟩, -⟩  := decSymbols_inv h reset_inv rfl
  have hlen := length_decTail_dout hbits hpend
  obtain ⟨hcnt, -⟩ := hbits
  have hpos' : (decSymbols vs DecUnit.reset).dpos = vs.length := hpos.trans (Nat.zero_add _)
  rw [hpos'] at hlow hhigh hlen
  rw [decCall_symbols vs rfl]
  by_cases hzero : (decTail (decSymbols vs DecUnit.reset)).dbuf = 0
  · refine .inl ⟨(decTail (decSymbols vs DecUnit.reset)).dout, ?_, by omega, by omega⟩
    rw [decEnd_of_zero hzero, DecUnit.publish, DecUnit.clearCall, hstat, hinfo, hres]
    rfl
  · exact .inr (by rw [decEnd_of_ne_zero hzero, raise_eq_of_dres hres])

/-- Everything a call of legal items from reset can end in. -/
theorem decCall_cases {xs : List Item} (h : ∀ x ∈ xs, ItemLegal x) :
    (∃ bytes : List Byte, decCall xs DecUnit.reset = { DecUnit.reset with dres := [.ok bytes] } ∧
      xs.length / 2 + xs.length % 2 ≤ bytes.length ∧ bytes.length ≤ 2 * (xs.length / 2) + xs.length % 2) ∨
    ∃ f, decCall xs DecUnit.reset = DecUnit.reset.raise f := by
  obtain ⟨vs, rfl⟩ | ⟨vs, ch, rest, rfl⟩ := items_cases xs
  · rw [List.length_map]
    exact (decCall_symbols_cases (legal_of_items h)).imp_right fun hf => ⟨_, hf⟩
  · exact .inr ⟨_, decCall_bad vs ch rest rfl⟩

/-! ## DECODE does not read DRES -/

/-- DEC with earlier entries before those of its result log. -/
def withEarlier (r : List DecResult) (u : DecUnit) : DecUnit := { u with dres := r ++ u.dres }

theorem publish_withEarlier (r : List DecResult) (u : DecUnit) (e : DecResult) :
    (withEarlier r u).publish e = withEarlier r (u.publish e) := by
  simp [DecUnit.publish, withEarlier]

theorem raise_withEarlier (r : List DecResult) (u : DecUnit) (f : DecFault) :
    (withEarlier r u).raise f = withEarlier r (u.raise f) :=
  publish_withEarlier r (u.clearCall.setStatus { state := .fault, cause := f.cause } f.info) (.fault f)

theorem decDrain_withEarlier (n : Nat) (r : List DecResult) (u : DecUnit) :
    decDrain n (withEarlier r u) = withEarlier r (decDrain n u) := by
  induction n generalizing u with
  | zero => rfl
  | succ n ih =>
    by_cases h : 8 ≤ u.dcnt.toNat
    · rw [decDrain_go n u h, decDrain_go n (withEarlier r u) h]
      exact ih (decByte u)
    · rw [decDrain_stop _ u (Nat.lt_of_not_le h), decDrain_stop _ (withEarlier r u) (Nat.lt_of_not_le h)]

theorem decSymbol_withEarlier (v : Symbol) (r : List DecResult) (u : DecUnit) :
    decSymbol v (withEarlier r u) = withEarlier r (decSymbol v u) := by
  cases hp : u.dpend with
  | none =>
    rw [decSymbol_first hp, decSymbol_first (u := withEarlier r u) hp]
    rfl
  | some p =>
    rw [decSymbol_second hp, decSymbol_second (u := withEarlier r u) hp]
    exact congrArg DecUnit.bumpPos (decDrain_withEarlier _ r (decMerge (combine p v) (u.setPend none)))

theorem decTail_withEarlier (r : List DecResult) (u : DecUnit) :
    decTail (withEarlier r u) = withEarlier r (decTail u) := by
  cases hp : u.dpend with
  | none => rw [decTail_of_none hp, decTail_of_none (u := withEarlier r u) hp]
  | some p =>
    have hp' : (withEarlier r u).dpend = some p := hp
    simp only [decTail, hp, hp']
    rfl

theorem decEnd_withEarlier (r : List DecResult) (u : DecUnit) :
    decEnd (withEarlier r u) = withEarlier r (decEnd u) := by
  have htail := decTail_withEarlier r u
  by_cases hzero : (decTail u).dbuf = 0
  · rw [decEnd_of_zero hzero, decEnd_of_zero (by rw [htail]; exact hzero), htail, publish_withEarlier]
    rfl
  · rw [decEnd_of_ne_zero hzero, decEnd_of_ne_zero (by rw [htail]; exact hzero), raise_withEarlier]

theorem whenRun_withEarlier {f : DecUnit → DecUnit} {r : List DecResult}
    (hf : ∀ u, f (withEarlier r u) = withEarlier r (f u)) (u : DecUnit) :
    (withEarlier r u).whenRun f = withEarlier r (u.whenRun f) := by
  cases hs : u.dstat.state with
  | run => rw [DecUnit.whenRun_run u f hs, DecUnit.whenRun_run (withEarlier r u) f hs, hf]
  | fault => rw [DecUnit.whenRun_fault u f hs, DecUnit.whenRun_fault (withEarlier r u) f hs]

/-- No item or DEND reads DRES, and what they publish comes after what is there (R24). -/
theorem decCall_withEarlier (xs : List Item) (r : List DecResult) (u : DecUnit) :
    decCall xs (withEarlier r u) = withEarlier r (decCall xs u) := by
  induction xs generalizing u with
  | nil => exact whenRun_withEarlier (decEnd_withEarlier r) u
  | cons x xs ih =>
    have heffect : decEffect x.command (withEarlier r u) = withEarlier r (decEffect x.command u) := by
      cases x with
      | sym v => exact whenRun_withEarlier (decSymbol_withEarlier v r) u
      | bad ch => exact whenRun_withEarlier (fun u => raise_withEarlier r u (.invalidCharacter ch u.dpos)) u
    rw [decCall_cons, decCall_cons, heffect, ih]

/-- A call in any state is the call from reset, with its entry after those already in DRES. -/
theorem issue_decodeCommands_eq_withEarlier (s : State) {xs : List Item} (h : ∀ x ∈ xs, ItemLegal x) :
    issue s (decodeCommands xs) = { s with dec := withEarlier s.dec.dres (decCall xs DecUnit.reset) } := by
  have hinit : s.dec.init = withEarlier s.dec.dres DecUnit.reset := by
    rw [withEarlier, show DecUnit.reset.dres = [] from rfl, List.append_nil]
    rfl
  rw [issue_decodeCommands s h, hinit, decCall_withEarlier]

/-- Settles O38: the call is the one from reset but for the entries already in DRES, and that one ends in `ok` or in a fault. -/
theorem decodeCallPublishesAFunctionOfItsItems : Obligations.DecodeCallPublishesAFunctionOfItsItems := by
  intro s xs h
  rw [decodeValues_eq h, issue_decodeCommands_eq_withEarlier s h]
  obtain ⟨bytes, hcall, hlow, hhigh⟩ | ⟨f, hcall⟩ := decCall_cases h
  · rw [hcall]
    refine ⟨.ok bytes, rfl, rfl, rfl, rfl, fun bytes' hb => ?_, nofun⟩
    cases hb
    exact ⟨⟨rfl, rfl, rfl, rfl, rfl, rfl, rfl⟩, hlow, hhigh⟩
  · rw [hcall]
    refine ⟨.fault f, rfl, rfl, rfl, rfl, nofun, fun f' hf => ?_⟩
    cases hf
    exact ⟨rfl, rfl⟩

/-! ## The first character outside the alphabet -/

theorem decodeValues_bad {vs : List Symbol} {ch : CharCode} {xs : List Item}
    (h : ∀ x ∈ vs.map .sym ++ .bad ch :: xs, ItemLegal x) :
    decodeValues (vs.map .sym ++ .bad ch :: xs) = some (.fault (.invalidCharacter ch vs.length)) := by
  have hidx : DecUnit.reset.dpos + vs.length = vs.length := Nat.zero_add _
  rw [decodeValues_eq h, decCall_bad vs ch xs rfl, hidx]
  rfl

theorem decodeValues_symbols_ne_invalidCharacter {vs : List Symbol} (h : ∀ v ∈ vs, Symbol.legal v = true)
    (ch : CharCode) (k : Nat) : decodeValues (vs.map .sym) ≠ some (.fault (.invalidCharacter ch k)) := by
  rw [decodeValues_eq (items_legal h)]
  obtain ⟨bytes, hcall, -, -⟩ | hcall := decCall_symbols_cases h
  · rw [hcall]
    exact nofun
  · rw [hcall]
    exact nofun

/-- After symbols alone, the first character outside the alphabet stands at the index that is their number. -/
theorem getElem?_eq_bad_iff (vs : List Symbol) (ch ch' : CharCode) (rest : List Item) (k : Nat) :
    ((vs.map Item.sym ++ .bad ch' :: rest)[k]? = some (.bad ch) ∧
      ∀ j < k, ∃ v, (vs.map Item.sym ++ .bad ch' :: rest)[j]? = some (.sym v)) ↔ ch' = ch ∧ vs.length = k := by
  have hat : (vs.map Item.sym ++ .bad ch' :: rest)[vs.length]? = some (.bad ch') := by simp
  have hbefore : ∀ j < vs.length, ∃ v, (vs.map Item.sym ++ .bad ch' :: rest)[j]? = some (.sym v) := fun j hj =>
    ⟨vs[j], by simp [List.getElem?_append_left, hj]⟩
  constructor
  · rintro ⟨hk, hall⟩
    obtain hlt | rfl | hgt := Nat.lt_trichotomy k vs.length
    · obtain ⟨v, hv⟩ := hbefore k hlt
      rw [hk] at hv
      cases hv
    · rw [hat] at hk
      cases hk
      exact ⟨rfl, rfl⟩
    · obtain ⟨v, hv⟩ := hall vs.length hgt
      rw [hat] at hv
      cases hv
  · rintro ⟨rfl, rfl⟩
    exact ⟨hat, hbefore⟩

/-- Settles O39: a call without such a character publishes no InvalidCharacter, and one with them names the first. -/
theorem firstBadCharacterIsTheOneReported : Obligations.FirstBadCharacterIsTheOneReported := by
  refine ⟨decodeValues_eq (by simp), fun xs h ch k => ?_⟩
  obtain ⟨vs, rfl⟩ | ⟨vs, ch', rest, rfl⟩ := items_cases xs
  · refine iff_of_false (decodeValues_symbols_ne_invalidCharacter (legal_of_items h) ch k) ?_
    rintro ⟨hk, -⟩
    simp at hk
  · rw [getElem?_eq_bad_iff, decodeValues_bad h]
    simp

end Sys2Proof.Proofs

/-! The bytes DECODE writes (spec/42_decoder.md section 2): DOUT and DBUF together hold the bits of the digit pairs taken in, so
what a call of whole pairs, with or without one symbol more, publishes is read off the pairs' bits. -/

namespace Sys2Proof.Proofs

open Sys2Proof.Machine

/-! ## The bytes of a bit string -/

/-- A byte sequence is determined by its length and its bit string, which has no bit above its bytes (R42). -/
theorem eq_of_streamNat_add_eq {as bs : List Byte} {r : Nat} (hlen : as.length = bs.length)
    (h : streamNat as + r * 2 ^ (8 * as.length) = streamNat bs) : as = bs ∧ r = 0 := by
  induction as generalizing bs with
  | nil =>
    cases bs with
    | nil =>
      rw [streamNat, Nat.zero_add, List.length_nil, Nat.mul_zero, Nat.pow_zero, Nat.mul_one] at h
      exact ⟨rfl, h⟩
    | cons b bs => cases hlen
  | cons a as ih =>
    cases bs with
    | nil => cases hlen
    | cons b bs =>
      have ha := a.isLt
      have hb := b.isLt
      have hcons : a.toNat + 256 * (streamNat as + r * 2 ^ (8 * as.length)) = b.toNat + 256 * streamNat bs := by
        rw [streamNat, streamNat, List.length_cons, Nat.mul_succ, Nat.pow_add] at h
        rw [← h]
        ring
      have hhead : a = b := BitVec.eq_of_toNat_eq (by omega)
      obtain ⟨htail, hr⟩ := ih (bs := bs) (by simpa using hlen) (by omega)
      exact ⟨by rw [hhead, htail], hr⟩

theorem streamNat_concat (bs : List Byte) (b : Byte) :
    streamNat (bs ++ [b]) = streamNat bs + b.toNat * 2 ^ (8 * bs.length) :=
  streamNat_append bs [b]

/-! ## The bytes in DOUT and the bits in DBUF hold the pairs taken in -/

/-- The bytes of DOUT, and above them DBUF, read as one number (R42). -/
def decBits (u : DecUnit) : Nat := streamNat u.dout + u.dbuf.toNat * 2 ^ (8 * u.dout.length)

/-- DOUT and DBUF hold the number `value` in `count` bits. -/
structure DecHolds (value count : Nat) (u : DecUnit) : Prop where
  value : decBits u = value
  count : 8 * u.dout.length + u.dcnt.toNat = count

/-- Moving the low byte of a number `x` from above the bytes to their end leaves the bits in their places (R136, R137). -/
theorem streamNat_concat_ofNat_add (bs : List Byte) (x : Nat) :
    streamNat (bs ++ [BitVec.ofNat 8 x]) + x / 2 ^ 8 * 2 ^ (8 * (bs ++ [BitVec.ofNat 8 x]).length) =
      streamNat bs + x * 2 ^ (8 * bs.length) := by
  rw [streamNat_concat, BitVec.toNat_ofNat, List.length_append, List.length_singleton, Nat.mul_succ, Nat.pow_add]
  conv_rhs => rw [← Nat.mod_add_div x (2 ^ 8)]
  ring

theorem decByte_holds {V C : Nat} {u : DecUnit} (h : DecHolds V C u) (hcnt : 8 ≤ u.dcnt.toNat) :
    DecHolds V C (decByte u) := by
  obtain ⟨hvalue, hcount⟩ := h
  constructor
  · rw [decBits, decByte_dout, decByte_dbuf_toNat, streamNat_concat_ofNat_add]
    exact hvalue
  · rw [decByte_dout, decByte_dcnt_toNat hcnt, List.length_append, List.length_singleton]
    omega

theorem decDrain_holds (n : Nat) {V C : Nat} {u : DecUnit} (h : DecHolds V C u) : DecHolds V C (decDrain n u) := by
  induction n generalizing u with
  | zero => exact h
  | succ n ih =>
    by_cases hcnt : 8 ≤ u.dcnt.toNat
    · rw [decDrain_go n u hcnt]
      exact ih (decByte_holds h hcnt)
    · rw [decDrain_stop _ u (by omega)]
      exact h

/-- A pair adds its value above the bits held, in its recovered width (R134 to R136). -/
theorem decPair_holds {V C : Nat} {u : DecUnit} (h : DecHolds V C u) (hbits : DecInv u) (v : Value) :
    DecHolds (V + v.toNat * 2 ^ C) (C + widthOf v) (decPair v u) := by
  obtain ⟨rfl, rfl⟩ := h
  have hbits' : DecInv (u.setPend none) := hbits
  refine decDrain_holds _ ⟨?_, ?_⟩
  · rw [decBits, decMerge_dbuf_toNat hbits', decBits, Nat.pow_add]
    show streamNat u.dout + (u.dbuf.toNat + v.toNat * 2 ^ u.dcnt.toNat) * 2 ^ (8 * u.dout.length) = _
    ring
  · rw [decMerge_dcnt_toNat hbits', ← Nat.add_assoc]
    rfl

/-- The first symbol of a pair adds no bit (R132). -/
theorem decSymbol_first_holds {V C : Nat} {u : DecUnit} (h : DecHolds V C u) (hpend : u.dpend = none) (v : Symbol) :
    DecHolds V C (decSymbol v u) := by
  obtain ⟨hvalue, hcount⟩ := h
  rw [decSymbol_first hpend]
  exact ⟨hvalue, hcount⟩

theorem decSymbol_second_holds {V C : Nat} {u : DecUnit} (h : DecHolds V C u) (hbits : DecInv u) {p : Symbol}
    (hpend : u.dpend = some p) (v : Symbol) :
    DecHolds (V + (combine p v).toNat * 2 ^ C) (C + widthOf (combine p v)) (decSymbol v u) := by
  obtain ⟨hvalue, hcount⟩ := decPair_holds h hbits (combine p v)
  rw [decSymbol_second hpend]
  exact ⟨hvalue, hcount⟩

theorem decSymbol_first_dpend {u : DecUnit} (hpend : u.dpend = none) (v : Symbol) :
    (decSymbol v u).dpend = some v := by
  rw [decSymbol_first hpend]
  rfl

theorem decSymbol_second_dpend {u : DecUnit} {p : Symbol} (hpend : u.dpend = some p) (v : Symbol) :
    (decSymbol v u).dpend = none := by
  obtain ⟨hnone, -⟩ := decPair_frame (combine p v) u
  rw [decSymbol_second hpend]
  exact hnone

theorem pairBits_cons_cons (p v : Symbol) (vs : List Symbol) :
    pairBits (p :: v :: vs) = ((combine p v).toNat + 2 ^ widthOf (combine p v) * (pairBits vs).1,
      widthOf (combine p v) + (pairBits vs).2) := by
  rw [widthOf_eq, combine_toNat]
  rfl

theorem pairBits_two (p v : Symbol) : pairBits [p, v] = ((combine p v).toNat, widthOf (combine p v)) :=
  pairBits_cons_cons p v []

/-- Symbols add the bits of their pairs above those held; a symbol without a partner adds none (R43, R131). -/
theorem decSymbols_holds {vs : List Symbol} (hvs : ∀ v ∈ vs, Symbol.legal v = true) {V C : Nat} {u : DecUnit}
    (h : DecHolds V C u) (hinv : DecUnitInv u) (hrun : u.dstat.state = .run) (hpend : u.dpend = none) :
    DecHolds (V + (pairBits vs).1 * 2 ^ C) (C + (pairBits vs).2) (decSymbols vs u) := by
  match vs, hvs with
  | [], _ => simpa [pairBits] using h
  | [v], _ => simpa [pairBits] using decSymbol_first_holds h hpend v
  | p :: v :: rest, hvs =>
    rw [List.forall_mem_cons, List.forall_mem_cons] at hvs
    obtain ⟨hp, hv, hrest⟩ := hvs
    obtain ⟨-, hstat1, -⟩ := decSymbol_frame p u
    obtain ⟨-, hstat2, -⟩ := decSymbol_frame v (decSymbol p u)
    have hpend1 := decSymbol_first_dpend hpend p
    have hinv1 := decSymbol_inv hinv hrun hp
    have hinv2 := decSymbol_inv hinv1 (by rw [hstat1, hrun]) hv
    have hpair := decSymbol_second_holds (decSymbol_first_holds h hpend p) hinv1.bits hpend1 v
    have ih := decSymbols_holds hrest hpair hinv2 (by rw [hstat2, hstat1, hrun]) (decSymbol_second_dpend hpend1 v)
    have hvalue : V + (combine p v).toNat * 2 ^ C + (pairBits rest).1 * 2 ^ (C + widthOf (combine p v)) =
        V + ((combine p v).toNat + 2 ^ widthOf (combine p v) * (pairBits rest).1) * 2 ^ C := by
      rw [Nat.pow_add]
      ring
    rw [hvalue, Nat.add_assoc C] at ih
    rw [pairBits_cons_cons]
    exact ih

/-- The symbols of a call from reset hold the bits of their pairs. -/
theorem decSymbols_reset_holds {vs : List Symbol} (hvs : ∀ v ∈ vs, Symbol.legal v = true) :
    DecHolds (pairBits vs).1 (pairBits vs).2 (decSymbols vs DecUnit.reset) := by
  have hreset : DecHolds 0 0 DecUnit.reset := ⟨rfl, rfl⟩
  simpa using decSymbols_holds hvs hreset reset_inv rfl rfl

theorem decSymbols_reset_dpend {vs : List Symbol} (hvs : ∀ v ∈ vs, Symbol.legal v = true) (heven : vs.length % 2 = 0) :
    (decSymbols vs DecUnit.reset).dpend = none := by
  obtain ⟨hpos, -⟩ := decSymbols_frame vs DecUnit.reset
  obtain ⟨-, hparity⟩ := (decSymbols_inv hvs reset_inv rfl).pend
  have hpos' : (decSymbols vs DecUnit.reset).dpos = vs.length := hpos.trans (Nat.zero_add _)
  rw [hpos', heven] at hparity
  simpa using hparity

/-! ## What a call of symbols publishes -/

/-- The entry of a call of symbols, by what the tail step leaves (R137 to R139). -/
theorem decodeValues_symbols {vs : List Symbol} (hvs : ∀ v ∈ vs, Symbol.legal v = true) :
    decodeValues (vs.map .sym) = some (if (decTail (decSymbols vs DecUnit.reset)).dbuf = 0
      then .ok (decTail (decSymbols vs DecUnit.reset)).dout else .fault .invalidPadding) := by
  obtain ⟨-, -, -, hres⟩ := decSymbols_frame vs DecUnit.reset
  rw [decodeValues_eq (items_legal hvs), decCall_symbols vs rfl]
  split
  next hzero => rw [decEnd_of_zero hzero, DecUnit.clearCall_dres, DecUnit.publish_dres, List.getLast?_concat]
  next hne => rw [decEnd_of_ne_zero hne, DecUnit.raise_dres, List.getLast?_concat]

/-- A call whose bits, after the tail step, are those of as many bytes publishes these bytes. -/
theorem decodeValues_eq_ok_of_decBits {vs : List Symbol} (hvs : ∀ v ∈ vs, Symbol.legal v = true) {bs : List Byte}
    (hlen : (decTail (decSymbols vs DecUnit.reset)).dout.length = bs.length)
    (hbits : decBits (decTail (decSymbols vs DecUnit.reset)) = streamNat bs) :
    decodeValues (vs.map .sym) = some (.ok bs) := by
  obtain ⟨hout, hbuf⟩ := eq_of_streamNat_add_eq hlen hbits
  rw [decodeValues_symbols hvs, if_pos (BitVec.eq_of_toNat_eq hbuf), hout]

/-- Whole pairs decode to the bytes whose bits they carry, with at most 7 zero bits above them (R138). -/
theorem decodeValues_of_pairs {vs : List Symbol} (hvs : ∀ v ∈ vs, Symbol.legal v = true) (heven : vs.length % 2 = 0)
    {bs : List Byte} {k : Nat} (hk : k ≤ 7) (hvalue : (pairBits vs).1 = streamNat bs)
    (hcount : (pairBits vs).2 = 8 * bs.length + k) : decodeValues (vs.map .sym) = some (.ok bs) := by
  obtain ⟨hv, hc⟩ := decSymbols_reset_holds hvs
  obtain ⟨hcnt, -⟩ := (decSymbols_inv hvs reset_inv rfl).bits
  have htail := decTail_of_none (decSymbols_reset_dpend hvs heven)
  exact decodeValues_eq_ok_of_decBits hvs (by rw [htail]; omega) (by rw [htail, hv, hvalue])

/-- The tail step adds the pending value above the bits held, and makes a byte of what it can (R137). -/
theorem decTail_holds {V C : Nat} {u : DecUnit} (h : DecHolds V C u) (hbits : DecInv u) {p : Symbol}
    (hpend : u.dpend = some p) :
    decBits (decTail u) = V + p.toNat * 2 ^ C ∧ (decTail u).dout.length = u.dout.length + 1 := by
  obtain ⟨rfl, rfl⟩ := h
  obtain ⟨hout, hbuf⟩ := decTail_of_some hbits hpend
  constructor
  · rw [decBits, hbuf, hout, streamNat_concat_ofNat_add, decBits, Nat.pow_add]
    ring
  · rw [hout, List.length_append, List.length_singleton]

/-- Whole pairs and a symbol more decode to the bytes whose bits they carry, the symbol's value above those of the pairs and in
the 1 to 8 bits that fill the last byte (R137). -/
theorem decodeValues_of_pairs_concat {vs : List Symbol} {x : Symbol} (hvs : ∀ v ∈ vs ++ [x], Symbol.legal v = true)
    (heven : vs.length % 2 = 0) {bs : List Byte} {n : Nat} (hpos : 1 ≤ n) (hn : n ≤ 8)
    (hvalue : streamNat bs = (pairBits vs).1 + x.toNat * 2 ^ (pairBits vs).2)
    (hcount : 8 * bs.length = (pairBits vs).2 + n) : decodeValues ((vs ++ [x]).map .sym) = some (.ok bs) := by
  have hholds := decSymbols_reset_holds hvs
  have hpairs : pairBits (vs ++ [x]) = pairBits vs := by simp [pairBits_append _ _ heven, pairBits]
  rw [hpairs] at hholds
  have hbits := (decSymbols_inv hvs reset_inv rfl).bits
  have hpend : (decSymbols (vs ++ [x]) DecUnit.reset).dpend = some x := by
    rw [decSymbols_concat]
    exact decSymbol_first_dpend (decSymbols_reset_dpend (fun v hv => hvs v (List.mem_append_left _ hv)) heven) x
  obtain ⟨hv, hlen⟩ := decTail_holds hholds hbits hpend
  obtain ⟨-, hc⟩ := hholds
  obtain ⟨hcnt, -⟩ := hbits
  exact decodeValues_eq_ok_of_decBits hvs (by omega) (hv.trans hvalue.symm)

/-- Whole pairs and a pair more decode to the bytes whose bits they carry, where the last pair has 7 to 13 bits to give: the
width recovered for it has then at most 7 bits more, and they are 0. -/
theorem decodeValues_of_pairs_pair {vs : List Symbol} {lo hi : Symbol}
    (hvs : ∀ v ∈ vs ++ [lo, hi], Symbol.legal v = true) (heven : vs.length % 2 = 0) {bs : List Byte} {n : Nat}
    (hlow : 7 ≤ n) (hn : n ≤ 13)
    (hvalue : streamNat bs = (pairBits vs).1 + (combine lo hi).toNat * 2 ^ (pairBits vs).2)
    (hcount : 8 * bs.length = (pairBits vs).2 + n) : decodeValues ((vs ++ [lo, hi]).map .sym) = some (.ok bs) := by
  have hw := widthOf_eq_or (combine lo hi)
  have hpairs : pairBits (vs ++ [lo, hi]) = (streamNat bs, (pairBits vs).2 + widthOf (combine lo hi)) := by
    rw [pairBits_append _ _ heven, pairBits_two, hvalue]
  refine decodeValues_of_pairs hvs (k := widthOf (combine lo hi) - n) ?_ (by omega) (by rw [hpairs]) ?_
  · rw [List.length_append, List.length_cons, List.length_singleton]
    omega
  · rw [hpairs]
    show (pairBits vs).2 + widthOf (combine lo hi) = _
    omega

/-! ## The round trip -/

/-- The rows of R116's case table: nothing for no bits, one symbol for 1 to 8 bits, the digits of the value for 7 to 13. -/
theorem tail_cases {tail : List Symbol} {n x : Nat} (h : tail.map BitVec.toNat = tailValues n x) (hx : x < 2 ^ n) :
    (n = 0 ∧ x = 0 ∧ tail = []) ∨ (1 ≤ n ∧ n ≤ 8 ∧ ∃ a : Symbol, a.toNat = x ∧ tail = [a]) ∨
      (7 ≤ n ∧ ∃ lo hi : Symbol, (combine lo hi).toNat = x ∧ tail = [lo, hi]) := by
  unfold tailValues at h
  split at h
  next hzero =>
    subst hzero
    exact .inl ⟨rfl, Nat.lt_one_iff.1 hx, List.map_eq_nil_iff.1 h⟩
  next hpos =>
    split at h
    next hone =>
      obtain ⟨a, rfl, ha⟩ := List.map_eq_singleton_iff.1 h
      exact .inr (.inl ⟨by omega, hone.1, a, ha, rfl⟩)
    next htwo =>
      obtain ⟨lo, _, rfl, hlo, htail⟩ := List.map_eq_cons_iff.1 h
      obtain ⟨hi, rfl, hhi⟩ := List.map_eq_singleton_iff.1 htail
      refine .inr (.inr ⟨?_, lo, hi, ?_, rfl⟩)
      · by_contra hlt
        have : 2 ^ n ≤ 2 ^ 6 := Nat.pow_le_pow_right (by decide) (by omega)
        omega
      · rw [combine_toNat, hlo, hhi]
        exact Nat.mod_add_div x 94

/-- Settles O40: the pairs carry the first bits of the bytes, and the tail, by its case, the rest of them. -/
theorem decodeOfEncodeIsTheBytes : Obligations.DecodeOfEncodeIsTheBytes := by
  intro bs
  obtain ⟨pairs, tail, n, x, hentry, hlegal, heven, hn, hx, htail, hvalue, hcount⟩ := encodedEntryIsPairsAndTail.2 bs
  refine ⟨pairs ++ tail, hentry, ?_⟩
  have hvs := List.all_eq_true.1 hlegal
  obtain ⟨rfl, rfl, rfl⟩ | ⟨hpos, hle, a, rfl, rfl⟩ | ⟨hlow, lo, hi, rfl, rfl⟩ := tail_cases htail hx
  · rw [List.append_nil] at hvs ⊢
    exact decodeValues_of_pairs hvs heven (Nat.zero_le 7) (by simpa using hvalue.symm) hcount.symm
  · exact decodeValues_of_pairs_concat hvs heven hpos hle hvalue hcount
  · exact decodeValues_of_pairs_pair hvs heven hlow hn hvalue hcount

/-! ## Sequences that decode alike -/

/-- One symbol is the tail of a call without pairs. -/
theorem decodeValues_one {p : Symbol} (hp : p.toNat ≤ 93) : decodeValues [.sym p] = some (.ok [p.setWidth 8]) := by
  have hbyte : (p.setWidth 8).toNat = p.toNat := BitVec.toNat_setWidth_of_le (by decide)
  refine decodeValues_of_pairs_concat (vs := []) (n := 8) ?_ rfl (by decide) (by decide) ?_ rfl
  · simpa [legal_iff] using hp
  · simp [streamNat, pairBits, hbyte]

/-- Two symbols hold their combined value, of which one byte is written out (R136); the rest is the residual. -/
theorem decodeValues_two {p q : Symbol} (hp : p.toNat ≤ 93) (hq : q.toNat ≤ 93) :
    decodeValues [.sym p, .sym q] = some (if p.toNat + 94 * q.toNat ≤ 255
      then .ok [BitVec.ofNat 8 (p.toNat + 94 * q.toNat)] else .fault .invalidPadding) := by
  have hvs : ∀ v ∈ [p, q], Symbol.legal v = true := by simp [legal_iff, hp, hq]
  have hc := combine_toNat p q
  by_cases hle : p.toNat + 94 * q.toNat ≤ 255
  · rw [if_pos hle]
    refine decodeValues_of_pairs_pair (vs := []) (n := 8) hvs rfl (by decide) (by decide) ?_ rfl
    have hbyte : p.toNat + 94 * q.toNat < 256 := by omega
    simp [streamNat, pairBits, hc, Nat.mod_eq_of_lt hbyte]
  · rw [if_neg hle, show [Item.sym p, .sym q] = [p, q].map .sym from rfl, decodeValues_symbols hvs,
      decTail_of_none (decSymbols_reset_dpend hvs (Nat.mod_self 2)), if_neg]
    intro hzero
    have hw := widthOf_eq_or (combine p q)
    obtain ⟨hvalue, hcount⟩ := decSymbols_reset_holds hvs
    obtain ⟨hcnt, -⟩ := (decSymbols_inv hvs reset_inv rfl).bits
    rw [pairBits_two] at hvalue hcount
    obtain ⟨b, hb⟩ := List.length_eq_one_iff.1 (by omega : (decSymbols [p, q] DecUnit.reset).dout.length = 1)
    rw [decBits, hb, hzero] at hvalue
    have hbyte : b.toNat = (combine p q).toNat := by simpa [streamNat] using hvalue
    omega

/-- A byte of at most 93 is encoded as one symbol: 8 bits are too few for a pair, and the tail is its value (R116). -/
theorem encodeValues_one {p : Symbol} (hp : p.toNat ≤ 93) : encodeValues [p.setWidth 8] = some [p] := by
  have hbyte : (p.setWidth 8).toNat = p.toNat := BitVec.toNat_setWidth_of_le (by decide)
  obtain ⟨pairs, tail, n, x, hentry, -, heven, -, -, htail, hvalue, hcount⟩ :=
    encodedEntryIsPairsAndTail.2 [p.setWidth 8]
  obtain ⟨hlow, -⟩ := pairBits_count_bounds pairs
  rw [List.length_singleton] at hcount
  obtain rfl : pairs = [] := List.eq_nil_of_length_eq_zero (by omega)
  obtain rfl : n = 8 := by simpa [pairBits] using hcount.symm
  obtain rfl : x = p.toNat := by simpa [pairBits, streamNat, hbyte] using hvalue.symm
  rw [tailValues, if_neg (by decide), if_pos ⟨Nat.le_refl 8, by omega⟩] at htail
  obtain ⟨a, rfl, ha⟩ := List.map_eq_singleton_iff.1 htail
  rw [hentry, BitVec.eq_of_toNat_eq ha]
  rfl

/-- An entry of whole pairs and one symbol `x` is the pairs of its bytes and the tail `x` (R118). -/
theorem bits_of_encodeValues_concat {bs : List Byte} {pairs : List Symbol} {x : Symbol}
    (hentry : encodeValues bs = some (pairs ++ [x])) (heven : pairs.length % 2 = 0) :
    (∀ v ∈ pairs ++ [x], Symbol.legal v = true) ∧
      streamNat bs = (pairBits pairs).1 + x.toNat * 2 ^ (pairBits pairs).2 := by
  obtain ⟨pairs', tail, n, y, hentry', hlegal, heven', -, hy, htail, hvalue, -⟩ := encodedEntryIsPairsAndTail.2 bs
  have heq : pairs' ++ tail = pairs ++ [x] := Option.some.inj (hentry'.symm.trans hentry)
  have hodd : (pairs' ++ tail).length = pairs.length + 1 := by rw [heq, List.length_append, List.length_singleton]
  obtain ⟨-, -, rfl⟩ | ⟨-, -, a, rfl, rfl⟩ | ⟨-, lo, hi, -, rfl⟩ := tail_cases htail hy
  · rw [List.length_append, List.length_nil] at hodd
    omega
  · obtain ⟨rfl, hax⟩ := List.append_inj' heq rfl
    obtain rfl : a = x := by simpa using hax
    exact ⟨List.all_eq_true.1 hlegal, hvalue⟩
  · rw [List.length_append, List.length_cons, List.length_singleton] at hodd
    omega

/-- Settles O42: with the symbol 0 after it the tail `x` is the low digit of a pair that carries the same value. -/
theorem decoderIsNotInjective : Obligations.DecoderIsNotInjective := by
  refine ⟨fun p hp => decodeValues_one hp, fun p q hp hq => decodeValues_two hp hq, fun p hp => encodeValues_one hp, ?_⟩
  intro bs pairs x n hentry heven hcount hn
  obtain ⟨hvs, hvalue⟩ := bits_of_encodeValues_concat hentry heven
  have hall : ∀ v ∈ pairs ++ [x, 0], Symbol.legal v = true := by
    rw [List.append_cons]
    exact List.forall_mem_append.2 ⟨hvs, by decide⟩
  have hcombine : (combine x 0).toNat = x.toNat := combine_toNat x 0
  exact decodeValues_of_pairs_pair (n := n) hall heven (by omega) (by omega) (by rw [hcombine, hvalue]) hcount

end Sys2Proof.Proofs

/-! The symbol table's port (spec/43_symbol_table_port.md): under the contract of R160 a looked-up symbol comes back as itself, so
the round trip of the symbols is one of the characters. -/

namespace Sys2Proof.Proofs

open Sys2Proof.Machine

/-- Every entry of ENCODE is all symbol values (R118), so the host's lookup of R161 stays within the contract. -/
theorem legal_of_encodeValues {bs : List Byte} {vs : List Symbol} (hentry : encodeValues bs = some vs) :
    ∀ v ∈ vs, Symbol.legal v = true := by
  obtain ⟨pairs, tail, n, x, hparts, hlegal, -⟩ := encodedEntryIsPairsAndTail.2 bs
  obtain rfl : pairs ++ tail = vs := Option.some.inj (hparts.symm.trans hentry)
  exact List.all_eq_true.1 hlegal

/-- The host sends the character of a symbol value back as that symbol (R160, R162). -/
theorem item_encodeMap {A : Alphabet} (hA : A.Valid) {v : Symbol} (hv : Symbol.legal v = true) :
    A.item (A.encodeMap v) = .sym v := by
  rw [Alphabet.item, hA.1 v hv]

theorem map_item_map_encodeMap {A : Alphabet} (hA : A.Valid) {vs : List Symbol} (hvs : ∀ v ∈ vs, Symbol.legal v = true) :
    (vs.map A.encodeMap).map A.item = vs.map Item.sym := by
  rw [List.map_map]
  exact List.map_congr_left fun v hv => item_encodeMap hA (hvs v hv)

/-- Settles O41: the lookups cancel on what ENCODE publishes, which leaves the round trip of the symbols (R142). -/
theorem hostRoundTripForEveryAlphabet : Obligations.HostRoundTripForEveryAlphabet := by
  intro A bs hA
  obtain ⟨vs, hentry, hdecode⟩ := decodeOfEncodeIsTheBytes bs
  have hvs := legal_of_encodeValues hentry
  have ⟨_, _, hprintable⟩ := hA
  refine ⟨vs.map A.encodeMap, by rw [hostEncode, hentry, Option.map_some], ?_, ?_⟩
  · rw [hostDecode, map_item_map_encodeMap hA hvs, hdecode]
  · exact List.forall_mem_map.2 fun v hv => hprintable v (hvs v hv)

end Sys2Proof.Proofs

/-! Faults and refusals (spec/60_exceptions.md): what a port does with an illegal word and a unit with no word at all, that ENC has
no fault, and what the entry of a fault leaves in DEC. -/

namespace Sys2Proof.Proofs

open Sys2Proof.Machine

/-! ## Illegal words -/

theorem receive_of_illegalOnPort {a : Arrival} (h : IllegalOnPort a) (s : State) :
    ∃ why, receive a s = .refused (.illegalCommand why) := by
  by_cases hport : unitField a.word = a.port
  · obtain ⟨why, hdec⟩ := h.resolve_left (not_not.2 hport)
    exact ⟨why, receive_error hport hdec s⟩
  · exact ⟨.wrongPort, receive_wrongPort hport s⟩

/-- At the head of a stream an illegal word adds its own reply and no more (R176). -/
theorem offerAll_cons_of_illegalOnPort {a : Arrival} (h : IllegalOnPort a) (s : State) (as : List Arrival) :
    offerAll s (a :: as) = ((offerAll s as).1, .illegalCommand :: (offerAll s as).2) := by
  obtain ⟨why, hrefused⟩ := receive_of_illegalOnPort h s
  simp only [offerAll, offer_refused hrefused]

/-- Settles O7: the words before the illegal one are offered first, and from the state they reach it only adds its reply. -/
theorem illegalWordChangesNothingAndIsNotSticky : Obligations.IllegalWordChangesNothingAndIsNotSticky := by
  intro a ha
  refine ⟨receive_of_illegalOnPort ha, fun s xs ys => ?_⟩
  rw [offerAll_append s xs (a :: ys), offerAll_append s xs ys, offerAll_cons_of_illegalOnPort ha]
  exact ⟨rfl, rfl⟩

/-! ## A unit with no word waiting -/

/-- Settles O9: a step is the command of the oldest word, which is of the unit at whose port it waits and leaves the other unit
alone (R10, R187). -/
theorem unitWithNoCommandHoldsItsState : Obligations.UnitWithNoCommandHoldsItsState := by
  refine ⟨fun s => step_nil, fun s t h => ?_⟩
  obtain rfl | ⟨⟨port, w⟩, rest, i, harr, hcmd, rfl⟩ := step_cases h
  · exact ⟨fun _ => rfl, fun _ => rfl⟩
  · have hunit : i.unit = port := unit_of_commandAt hcmd
    rw [harr]
    cases port with
    | enc => exact ⟨fun hnone => absurd hnone (by simp), fun _ => decEffect_of_unit_enc hunit s.dec⟩
    | dec => exact ⟨fun _ => encEffect_of_unit_dec hunit s.enc, fun hnone => absurd hnone (by simp)⟩

/-! ## ENC has no fault -/

/-- Only DSYM can carry an operand out of range, so each command of ENC is legal (R61, R65 (e)). -/
theorem wf_of_unit_enc {i : Instr} (h : i.unit = .enc) : i.wf = true := by
  cases i with
  | einit | eput _ | eend => rfl
  | dinit | dsym _ | dbad _ | dend => cases h

/-- Settles O15: a legal command has a next state, and ENC's commands have no effect on DEC. -/
theorem encoderRaisesNoFault : Obligations.EncoderRaisesNoFault := by
  intro i s hunit
  exact ⟨applyCommand i s, exec_of_wf i s (wf_of_unit_enc hunit), decEffect_of_unit_enc hunit s.dec⟩

/-! ## Fault entry -/

/-- Fault entry is one for both faults: they differ in the cause, the information and the entry published (R178). -/
theorem raise_eq (u : DecUnit) (f : DecFault) : u.raise f =
    { dbuf := 0, dcnt := 0, dpend := none, dpos := 0, dout := [], dstat := { state := .fault, cause := f.cause }
      dinfo := f.info, dres := u.dres ++ [.fault f] } := rfl

/-- Settles O26: the two cases of the entry. -/
theorem faultEntryDiscardsTheCallAndRecordsTheFault : Obligations.FaultEntryDiscardsTheCallAndRecordsTheFault :=
  ⟨fun u ch idx => raise_eq u (.invalidCharacter ch idx), fun u => raise_eq u .invalidPadding⟩

end Sys2Proof.Proofs

/-! Reset and the end of a run (spec/70_reset_and_hazards.md): no command shortens a log, so that only a reset empties one, and the
state that whole calls leave. -/

namespace Sys2Proof.Proofs

open Sys2Proof.Machine

/-! ## The logs only grow -/

/-- Each command leaves ERES as it is, but EEND, which appends to it (R24). -/
theorem eres_prefix_encEffect (i : Instr) (u : EncUnit) : u.eres <+: (encEffect i u).eres := by
  by_cases hi : i = .eend
  · subst hi
    obtain ⟨tail, -, -, hend⟩ := encEnd_eq u
    rw [encEffect_eend, hend]
    exact List.prefix_append ..
  · rw [encEffect_eres_of_ne hi u]

theorem dres_prefix_raise (u : DecUnit) (f : DecFault) : u.dres <+: (u.raise f).dres := by
  rw [DecUnit.raise_dres]
  exact List.prefix_append ..

/-- DEND publishes the call or a fault, and appends to DRES either way (R24, R137). -/
theorem dres_prefix_decEnd (u : DecUnit) : u.dres <+: (decEnd u).dres := by
  obtain ⟨bs, -, hend⟩ | hend := decEnd_cases u
  · rw [hend]
    exact List.prefix_append ..
  · rw [hend]
    exact dres_prefix_raise u _

/-- Each command leaves DRES as it is, but DBAD and DEND in RUN, which append to it (R24, R141). -/
theorem dres_prefix_decEffect (i : Instr) (u : DecUnit) : u.dres <+: (decEffect i u).dres := by
  cases i with
  | dbad ch => exact whenRun_keeps (P := fun t => u.dres <+: t.dres) List.prefix_rfl fun _ => dres_prefix_raise u _
  | dend => exact whenRun_keeps (P := fun t => u.dres <+: t.dres) List.prefix_rfl fun _ => dres_prefix_decEnd u
  | einit | eput _ | eend | dinit | dsym _ =>
    rw [decEffect_dres_of_ne (by simp) (by simp) u]

/-- Settles O1: reset is as R28 lists it, and a step is at most one command, which can only append to the logs. -/
theorem resetInitialisesAndOnlyResetShortensALog : Obligations.ResetInitialisesAndOnlyResetShortensALog := by
  refine ⟨rfl, rfl, fun s => ⟨rfl, rfl⟩, fun s t h => ?_⟩
  obtain rfl | ⟨a, rest, i, -, -, rfl⟩ := step_cases h
  · exact ⟨List.prefix_rfl, List.prefix_rfl⟩
  · exact ⟨eres_prefix_encEffect i s.enc, dres_prefix_decEffect i s.dec⟩

/-! ## The end of a run -/

/-- Settles O43: ENCODE leaves ENC initial, DECODE leaves DEC initial when it publishes `ok` and in FAULT when it publishes a fault
(R207), and neither touches the other unit or the words that wait, of which there are none after reset. -/
theorem wholeCallsMakeACompleteRun : Obligations.WholeCallsMakeACompleteRun := by
  intro bs xs h
  obtain ⟨vs, -, hencode⟩ := encodeCallPublishesAFunctionOfItsBytes State.reset bs
  obtain ⟨r, -, henc, harr, -, hok, hfault⟩ :=
    decodeCallPublishesAFunctionOfItsItems (issue State.reset (encodeCommands bs)) xs h
  refine ⟨?arrivals, ?enc, ?dec⟩
  case arrivals => rw [harr, hencode]; rfl
  case enc => rw [henc, hencode]; exact ⟨rfl, rfl, rfl⟩
  case dec =>
    cases r with
    | ok bytes =>
      obtain ⟨hinitial, -, -⟩ := hok bytes rfl
      exact .inl hinitial
    | fault f =>
      obtain ⟨hstat, -⟩ := hfault f rfl
      exact .inr (congrArg DStat.state hstat)

end Sys2Proof.Proofs

/-! Commands outside the encoding (spec/30_encoding.md, Part A, R65 (e)): DSYM has more operands than there are symbol values, and
the meaning of the others stops by name. -/

namespace Sys2Proof.Proofs

open Sys2Proof.Machine

theorem legal_eq_false_iff (v : Symbol) : Symbol.legal v = false ↔ 93 < v.toNat := by
  rw [← Bool.not_eq_true, legal_iff, not_le]

/-- Settles O23: such an operand is no symbol value, and DSYM asks for one before it looks at the state. -/
theorem dsymAboveNinetyThreeIsRefused : Obligations.DsymAboveNinetyThreeIsRefused := by
  intro s v hv
  exact exec_dsym_illegal v s ((legal_eq_false_iff v).2 hv)

end Sys2Proof.Proofs
